-- ==== Sys2Proof/Word.lean ====
section
/-!
DEFINITION. The byte and the 16-bit value of 00_scope.md R14, and the byte sequence of R15.
-/

namespace Sys2Proof

/-- A byte: 8 bits, an unsigned value 0..255 (R14). -/
abbrev Byte := BitVec 8

/-- A 16-bit value: a CRC, a declared payload length (R14, R27). -/
abbrev Half := BitVec 16

/-- A 32-bit field of a command or a record (R55). -/
abbrev Quad := BitVec 32

/-- A byte sequence; index 0 is the first byte on the wire and, in the receive buffer, the oldest (R15). -/
abbrev Bytes := List Byte

end Sys2Proof
end

