-- ==== Sys2Proof/Syntax.lean ====
section
/-!
DEFINITION. The values operations take and give (frames, packets, real arguments, accessor names) and the
instructions: one constructor for each row of spec/opcode_table.json.
-/

namespace Sys2Proof

/-- A Frame value: its backing buffer, and the payload as an offset and a length into it (R40). -/
structure Frame where
  buf    : Bytes
  payOff : Nat
  payLen : Nat
  deriving DecidableEq, Repr

/-- The ten packet variants (R89, R200). A decoder constructor is named by the one kind of packet it makes (R153). -/
inductive Kind where
  | firmwareVersion
  | telemetry
  | requestFirmwareVersion
  | requestTelemetry
  | setDutyCycle
  | setCurrent
  | setCurrentBrake
  | setRPM
  | setPosition
  | setServoPosition
  deriving DecidableEq, Repr

/-- A Packet value: a frame and its kind (R41); its name is a function of the kind (R200). -/
structure Packet where
  frame : Frame
  kind  : Kind
  deriving DecidableEq, Repr

/-- A value of REAL (R8, R203): a rational number, or a value a floating-point type may hold that is no number
(93_implementation_defined.md U6). Which rationals are values of the type is the parameter `Config.real`'s to say. -/
inductive RealArg where
  | fin (q : Rat)
  | nan
  | posInf
  | negInf
  deriving DecidableEq, Repr

/-- The accessors of a `Telemetry` packet, in the order of R221. -/
inductive TelField where
  | tempFet | tempMotor | currentMotor | currentIn | dutyNow | rpm | vIn
  | ampHours | ampHoursCharged | wattHours | wattHoursCharged
  | tachometer | tachometerAbs | faultCode | pidPos | controllerId
  | tempMos1 | tempMos2 | tempMos3 | vD | vQ
  deriving DecidableEq, Repr

/-- The accessors of a `FirmwareVersion` packet (R230). -/
inductive FwField where
  | fwMajor | fwMinor | hwName | uuid | paired | deviceVersion
  deriving DecidableEq, Repr

/-- What a call of DEC_TELEMETRY or DEC_FW_VERSION asks for: the constructor, or one accessor of the packet it
makes (R96 rows 0x18 and 0x19, R220, R230). -/
inductive DecCall (α : Type) where
  | construct
  | access (field : α)
  deriving DecidableEq, Repr

/-- The formats of spec/opcode_table.json (R97); the TID rows are read in two directions (R89). -/
inductive Format where
  | sof
  | tidIn
  | tidOut
  | op
  deriving DecidableEq, Repr

/-- The instructions: one constructor per row of spec/opcode_table.json, in the table's order.
SOF and inbound TID rows carry their opcode only: their operands stand in the receive buffer and are read by the
meaning, since a window may hold less than a whole frame (R88). Outbound TID rows carry the field their payload
spells. OP rows carry the arguments of R96. -/
inductive Instr where
  -- SOF rows: byte 0 of a window
  | frameSmall
  | frameLarge
  | nonCandidate (b : Byte)
  -- TID rows: payload byte 0
  | requestFirmwareVersion
  | firmwareVersion
  | requestTelemetry
  | telemetry
  | setDutyCycle (field : Quad)
  | setCurrent (field : Quad)
  | setCurrentBrake (field : Quad)
  | setRPM (field : Quad)
  | setPosition (field : Quad)
  | setServoPosition (field : Half)
  | unknownType (tid : Byte)
  -- OP rows: the operations of R96
  | registerType (tid : Byte) (ctor : Kind)
  | setPacketHandler
  | setErrorHandler
  | start
  | stop
  | rxAppend (chunk : Bytes)
  | scanPass
  | createPacket (w : Bytes)
  | crc16 (bytes : Bytes)
  | buildFrame (n : Int)
  | sealFrame (f : Frame)
  | extractFrame (raw : Bytes) (off n : Nat)
  | send (f : Frame)
  | loopTest
  | encRequestFwVersion
  | encRequestTelemetry
  | encSetDutyCycle (x : RealArg)
  | encSetCurrent (x : RealArg)
  | encSetCurrentBrake (x : RealArg)
  | encSetRpm (x : RealArg)
  | encSetPosition (x : RealArg)
  | encSetServoPosition (x : RealArg)
  | decTelemetry (call : DecCall TelField) (f : Frame)
  | decFwVersion (call : DecCall FwField) (f : Frame)
  deriving DecidableEq, Repr

/-- The agents that execute steps (R10). -/
inductive Agent where
  | rx
  | scan
  | app
  deriving DecidableEq, Repr

/-- Which agents may take an instruction as their step (R10, R96, R253). EXTRACT_FRAME and the decoder constructors are
the scanner's; the accessors of a packet are the application's. CRC16, whose agent R96 gives as "any", is the scanner's and
the application's, since R10 and R253 give RX nothing but RX_APPEND (DESIGN CHOICE, log entry 38). -/
def Instr.agents : Instr → List Agent
  | .rxAppend _ => [.rx]
  | .frameSmall | .frameLarge | .nonCandidate _ | .firmwareVersion | .telemetry | .unknownType _
  | .scanPass | .loopTest => [.scan]
  | .extractFrame _ _ _ | .decTelemetry .construct _ | .decFwVersion .construct _ => [.scan]
  | .createPacket _ | .crc16 _ => [.scan, .app]
  | .decTelemetry (.access _) _ | .decFwVersion (.access _) _ => [.app]
  | .requestFirmwareVersion | .requestTelemetry | .setDutyCycle _ | .setCurrent _ | .setCurrentBrake _
  | .setRPM _ | .setPosition _ | .setServoPosition _ => [.app]
  | .registerType _ _ | .setPacketHandler | .setErrorHandler | .start | .stop => [.app]
  | .buildFrame _ | .sealFrame _ | .send _ => [.app]
  | .encRequestFwVersion | .encRequestTelemetry | .encSetDutyCycle _ | .encSetCurrent _
  | .encSetCurrentBrake _ | .encSetRpm _ | .encSetPosition _ | .encSetServoPosition _ => [.app]

/-- The application's calls that wait while a STOP waits: those that act on the block's shared state or its factory. The
others wait for nothing: encoders, with what they are made of, run "on any thread at any time" (R62, R201), accessors from any
thread (R231), SEND takes no lock and is the packet handler's too (R182, R251), CRC16 is anybody's (R96) (log entry 13). -/
def Instr.waitsForJoin : Instr → Bool
  | .registerType _ _ | .setPacketHandler | .setErrorHandler | .start | .stop | .createPacket _ => true
  | .decTelemetry _ _ | .decFwVersion _ _ | .buildFrame _ | .sealFrame _ | .send _ | .crc16 _ => false
  | .encRequestFwVersion | .encRequestTelemetry | .encSetDutyCycle _ | .encSetCurrent _
  | .encSetCurrentBrake _ | .encSetRpm _ | .encSetPosition _ | .encSetServoPosition _ => false
  | .requestFirmwareVersion | .requestTelemetry | .setDutyCycle _ | .setCurrent _ | .setCurrentBrake _
  | .setRPM _ | .setPosition _ | .setServoPosition _ => false
  | .frameSmall | .frameLarge | .nonCandidate _ | .firmwareVersion | .telemetry | .unknownType _
  | .rxAppend _ | .scanPass | .extractFrame _ _ _ | .loopTest => false

/-- The format an instruction is written in (R97). -/
def Instr.format : Instr → Format
  | .frameSmall | .frameLarge | .nonCandidate _ => .sof
  | .firmwareVersion | .telemetry | .unknownType _ => .tidIn
  | .requestFirmwareVersion | .requestTelemetry | .setDutyCycle _ | .setCurrent _ | .setCurrentBrake _
  | .setRPM _ | .setPosition _ | .setServoPosition _ => .tidOut
  | .registerType _ _ | .setPacketHandler | .setErrorHandler | .start | .stop | .rxAppend _ | .scanPass
  | .createPacket _ | .crc16 _ | .buildFrame _ | .sealFrame _ | .extractFrame _ _ _ | .send _ | .loopTest
  | .encRequestFwVersion | .encRequestTelemetry | .encSetDutyCycle _ | .encSetCurrent _
  | .encSetCurrentBrake _ | .encSetRpm _ | .encSetPosition _ | .encSetServoPosition _
  | .decTelemetry _ _ | .decFwVersion _ _ => .op

end Sys2Proof
end

