-- ==== Sys2Proof/Config.lean ====
section
/-!
DEFINITION. What an implementation fixes: the constants of 00_scope.md R5 and R6, the parameters of R7 and R8 as
plain data, and the free values (93_implementation_defined.md U3, U6).
The default values of the parameters stand in Sys2Proof/Machine/Params.lean.
-/

namespace Sys2Proof

/-! ### The constants the source fixes (R5) and those derived from them (R6) -/

def SOF_SMALL : Byte := 0x02
def SOF_LARGE : Byte := 0x03
def EOF_VAL : Byte := 0x03
def SMALL_MAX : Nat := 255
def MAX_PAYLOAD : Nat := 1024
def CRC_BYTES : Nat := 2
def TRAILER_BYTES : Nat := 3
def HDR_SMALL : Nat := 2
def HDR_LARGE : Nat := 3
def MIN_FRAME_SIZE : Nat := 5
def MIN_RX_FRAME_SIZE : Nat := 6
def MAX_FRAME_SIZE : Nat := 1030

/-- The five parameters of the CRC unit (R7, R110). -/
structure CrcParams where
  poly   : Half
  init   : Half
  refin  : Bool
  refout : Bool
  xorout : Half
  deriving DecidableEq, Repr

/-- The access widths of `MemRead` and `MemWrite` (R16): 1, 2 or 4 bytes. -/
inductive Width where
  | w8
  | w16
  | w32
  deriving DecidableEq, Repr

/-- Where a telemetry field lies: the parameters OFF and W of one row of R221. -/
structure FieldPos where
  off : Nat
  w   : Width
  deriving DecidableEq, Repr

/-- The telemetry layout parameters OFF and W of R7 and R221, one pair for each field. `temp_fet` is no parameter: the
source's example fixes its row (R223). -/
structure TelLayout where
  tempMotor        : FieldPos
  currentMotor     : FieldPos
  currentIn        : FieldPos
  dutyNow          : FieldPos
  rpm              : FieldPos
  vIn              : FieldPos
  ampHours         : FieldPos
  ampHoursCharged  : FieldPos
  wattHours        : FieldPos
  wattHoursCharged : FieldPos
  tachometer       : FieldPos
  tachometerAbs    : FieldPos
  faultCode        : FieldPos
  pidPos           : FieldPos
  controllerId     : FieldPos
  tempMos1         : FieldPos
  tempMos2         : FieldPos
  tempMos3         : FieldPos
  vD               : FieldPos
  vQ               : FieldPos
  deriving DecidableEq, Repr

/-- The parameter REAL of R8: the number type of command arguments and of decoded physical values. The exact rationals
are the normative reading; a binary floating-point type is given by its number of fraction bits and its greatest
exponent (R203; 93_implementation_defined.md U7; log entry 17). -/
inductive RealType where
  | exact
  | binary (fracBits emax : Nat)
  deriving DecidableEq, Repr

/-- The parameters of R7 and R8. A claim over every state is a claim over every value of them, since the state
carries them (`State.cfg`) and no step changes them. -/
structure Config where
  crc                : CrcParams
  tidFwVersion       : Byte
  tidGetValues       : Byte
  tidSetDuty         : Byte
  tidSetCurrent      : Byte
  tidSetCurrentBrake : Byte
  tidSetRpm          : Byte
  tidSetPos          : Byte
  tidSetServoPos     : Byte
  tel                : TelLayout
  registryInit       : List (Byte × Kind)
  real               : RealType
  deriving DecidableEq, Repr

/-- The eight type identifiers of R7. -/
def Config.tids (c : Config) : List Byte :=
  [c.tidFwVersion, c.tidGetValues, c.tidSetDuty, c.tidSetCurrent, c.tidSetCurrentBrake, c.tidSetRpm, c.tidSetPos,
    c.tidSetServoPos]

/-- The constraints of R7 that hold whatever the values: the identifiers are pairwise distinct, and the
initial registry is a map (R8, 92_eei_decisions.md D20). -/
abbrev Config.wf (c : Config) : Prop :=
  c.tids.Nodup ∧ (c.registryInit.map Prod.fst).Nodup

/-! ### Free values -/

/-- Byte `i` of what BUILD_FRAME's `k`-th draw leaves in the bytes nobody has written yet (U3). No body: nothing can
be proved of it. -/
opaque Config.freeByte (k i : Nat) : Byte

/-- FIX where the product is no number (U6): a free bit pattern of the field's width. No body. -/
opaque Config.freeFix (x : RealArg) (scale : Nat) (w : Nat) : BitVec w

end Sys2Proof
end

