-- ==== Sys2Proof/Machine/Bytes.lean ====
section
/-!
DEFINITION. Byte order, sub-sequences and two's complement (00_scope.md R14, R15; 20_memory.md R53).
-/

namespace Sys2Proof.Machine

/-- The unsigned value of a byte sequence, most significant byte first (R14, R53). -/
def beNat (s : Bytes) : Nat := s.foldl (fun v b => v * 256 + b.toNat) 0

/-- The `n` low bytes of `v`, most significant first (R16, `MemWrite`). -/
def beBytes : Nat → Nat → Bytes
  | 0, _ => []
  | n + 1, v => BitVec.ofNat 8 (v / 256 ^ n) :: beBytes n v

/-- `s[a..a+n)` (R15). -/
def slice (s : Bytes) (a n : Nat) : Bytes := (s.drop a).take n

/-- `s[i]` where the caller has established `i < len(s)` (R59). -/
def byteAt (s : Bytes) (i : Nat) : Byte := s.getD i 0

/-- `s` with `t` in place of the bytes at `a .. a+len(t)-1`. -/
def overwrite (s : Bytes) (a : Nat) (t : Bytes) : Bytes := s.take a ++ t ++ s.drop (a + t.length)

/-- Two bytes, the high one first, as a 16-bit value (R84, R85). -/
def half (hi lo : Byte) : Half := hi ++ lo

/-- The high and the low byte of a 16-bit value, in wire order (R84, R85). -/
def halfBytes (v : Half) : Bytes := [v.extractLsb' 8 8, v.extractLsb' 0 8]

/-- `signed_W(v)` of R14. -/
def signedOf (w : Nat) (v : Nat) : Int := (BitVec.ofNat w v).toInt

/-- `trunc` of R203: toward zero. -/
def trunc (q : Rat) : Int := q.num.tdiv q.den

/-- The number of bytes of an access width (R16). -/
def widthBytes : Width → Nat
  | .w8 => 1
  | .w16 => 2
  | .w32 => 4

end Sys2Proof.Machine
end

