-- ==== Sys2Proof/Machine/Params.lean ====
section
/-!
DEFINITION. The default values of the parameters (00_scope.md R7, 40_crc.md R112, 44_packet_types.md R221,
42_factory_dispatch.md R143). None of them is the source's: 93_implementation_defined.md, part B.
-/

namespace Sys2Proof.Machine

/-- CRC-16/XMODEM. PRESUMED, unsafe: G1, general knowledge and not in the source (R112; log entry 4). -/
def defaultCrc : CrcParams :=
  { poly := 0x1021, init := 0x0000, refin := false, refout := false, xorout := 0x0000 }

/-- The default offsets and widths of R221. PRESUMED, unsafe: G6 (log entry 6). -/
def defaultTel : TelLayout where
  tempMotor        := ⟨3, .w16⟩
  currentMotor     := ⟨5, .w32⟩
  currentIn        := ⟨9, .w32⟩
  dutyNow          := ⟨21, .w16⟩
  rpm              := ⟨23, .w32⟩
  vIn              := ⟨27, .w16⟩
  ampHours         := ⟨29, .w32⟩
  ampHoursCharged  := ⟨33, .w32⟩
  wattHours        := ⟨37, .w32⟩
  wattHoursCharged := ⟨41, .w32⟩
  tachometer       := ⟨45, .w32⟩
  tachometerAbs    := ⟨49, .w32⟩
  faultCode        := ⟨53, .w8⟩
  pidPos           := ⟨54, .w32⟩
  controllerId     := ⟨58, .w8⟩
  tempMos1         := ⟨59, .w16⟩
  tempMos2         := ⟨61, .w16⟩
  tempMos3         := ⟨63, .w16⟩
  vD               := ⟨65, .w32⟩
  vQ               := ⟨69, .w32⟩

/-- The default parameters. The identifiers are PRESUMED, unsafe: G4 (log entry 5). The initial registry is the
spec's decision D20 (R143; log entry 7), and REAL is the exact rationals it recommends (D13; log entry 17). -/
def defaultConfig : Config where
  crc                := defaultCrc
  tidFwVersion       := 0
  tidGetValues       := 4
  tidSetDuty         := 5
  tidSetCurrent      := 6
  tidSetCurrentBrake := 7
  tidSetRpm          := 8
  tidSetPos          := 9
  tidSetServoPos     := 12
  tel                := defaultTel
  registryInit       := [(0, .firmwareVersion), (4, .telemetry)]
  real               := .exact

end Sys2Proof.Machine
end

