-- ==== Sys2Proof/WellFormed.lean ====
section
/-!
DEFINITION. What a well-formed frame and a well-formed instruction are.
-/

namespace Sys2Proof

/-- The invariants of every Frame value made by a rule of the spec (R40). -/
abbrev Frame.wf (f : Frame) : Prop :=
  MIN_FRAME_SIZE ≤ f.buf.length ∧ f.buf.length ≤ MAX_FRAME_SIZE ∧ 1 ≤ f.payOff ∧
    f.payOff + f.payLen + 1 ≤ f.buf.length

/-- The stronger invariant of frames made by BUILD_FRAME or accepted by CREATE_PACKET (R40): the payload starts
right after a header of 2 or 3 bytes, and exactly the three trailer bytes follow it. -/
abbrev Frame.laidOut (f : Frame) : Prop :=
  (f.payOff = HDR_SMALL ∨ f.payOff = HDR_LARGE) ∧ f.payLen ≤ MAX_PAYLOAD ∧
    f.buf.length = f.payOff + f.payLen + TRAILER_BYTES

/-- A well-formed instruction under the parameters `c`: a NON_CANDIDATE byte is neither SOF value (R173), an
UNKNOWN_TYPE identifier is none of the inbound rows' (R97), and a frame operand is a value some rule can make (R40). -/
abbrev Instr.wf (c : Config) : Instr → Prop
  | .nonCandidate b => b ≠ SOF_SMALL ∧ b ≠ SOF_LARGE
  | .unknownType t => t ≠ c.tidFwVersion ∧ t ≠ c.tidGetValues
  | .sealFrame f => f.wf
  | .send f => f.wf
  | .decTelemetry _ f => f.wf
  | .decFwVersion _ f => f.wf
  | .frameSmall | .frameLarge | .requestFirmwareVersion | .firmwareVersion | .requestTelemetry | .telemetry
  | .setDutyCycle _ | .setCurrent _ | .setCurrentBrake _ | .setRPM _ | .setPosition _ | .setServoPosition _
  | .registerType _ _ | .setPacketHandler | .setErrorHandler | .start | .stop | .rxAppend _ | .scanPass
  | .createPacket _ | .crc16 _ | .buildFrame _ | .extractFrame _ _ _ | .loopTest | .encRequestFwVersion
  | .encRequestTelemetry | .encSetDutyCycle _ | .encSetCurrent _ | .encSetCurrentBrake _ | .encSetRpm _
  | .encSetPosition _ | .encSetServoPosition _ => True

end Sys2Proof
end

