-- ==== Sys2Proof/Decode.lean ====
section
/-!
DEFINITION. The decoder of each format of spec/opcode_table.json (30_encoding.md R97), total on any bytes, and the
encoder after it.

SOF and inbound TID formats are one byte, the opcode. The outbound TID format is a payload (R89, R201). The OP
format begins with the operation number of R96; what follows it is this model's own spelling of the argument list
(DESIGN CHOICE, log entry 2: no source has an encoding of arguments, 92_eei_decisions.md D1).
-/

namespace Sys2Proof

/-- Why a record is no instruction. -/
inductive DecodeError where
  /-- there is no first byte -/
  | empty
  /-- the bytes end inside an operand -/
  | truncated
  /-- the first byte is no operation number of R96 -/
  | unknownOp (b : Byte)
  /-- the first byte is no identifier of an outbound variant (R89) -/
  | unknownCommand (b : Byte)
  /-- a list element is marked by neither 0 nor 1 -/
  | badMark (b : Byte)
  /-- no decoder constructor has this number -/
  | badCtor (b : Byte)
  /-- a sign byte is neither 0 nor 1 -/
  | badSign (b : Byte)
  /-- no form of real argument has this number -/
  | badReal (b : Byte)
  /-- no accessor has this number -/
  | badAccessor (b : Byte)
  deriving DecidableEq, Repr

/-- A reader of one operand: the operand and the bytes after it, or why there is none. -/
abbrev Reader (α : Type) := Bytes → Except DecodeError (α × Bytes)

/-! ### Operands of the OP format -/

def getByte : Reader Byte
  | [] => .error .truncated
  | b :: t => .ok (b, t)

/-- A byte sequence of any length: each byte after a mark 1, the end a mark 0. -/
def getBytes : Reader Bytes
  | [] => .error .truncated
  | m :: t =>
    if m = 0 then .ok ([], t)
    else if m = 1 then
      match t with
      | [] => .error .truncated
      | b :: t' =>
        match getBytes t' with
        | .ok (s, rest) => .ok (b :: s, rest)
        | .error e => .error e
    else .error (.badMark m)

/-- A natural number: its base-256 digits, most significant first. -/
def getNat : Reader Nat := fun s => do
  let (d, t) ← getBytes s
  pure (Machine.beNat d, t)

/-- An integer: a sign byte, then the magnitude `i` of a non-negative one or `-1 - i` of a negative one. -/
def getInt : Reader Int := fun s => do
  let (g, t) ← getByte s
  let (m, u) ← getNat t
  if g = 0 then pure (Int.ofNat m, u)
  else if g = 1 then pure (Int.negSucc m, u)
  else .error (.badSign g)

/-- A real argument: its form, and for a number the numerator and the denominator (0 is read as the number 0). -/
def getReal : Reader RealArg := fun s => do
  let (g, t) ← getByte s
  match g.toNat with
  | 0 => do
    let (n, u) ← getInt t
    let (d, v) ← getNat u
    pure (.fin (mkRat n d), v)
  | 1 => pure (.nan, t)
  | 2 => pure (.posInf, t)
  | 3 => pure (.negInf, t)
  | _ => .error (.badReal g)

def getFrame : Reader Frame := fun s => do
  let (b, t) ← getBytes s
  let (o, u) ← getNat t
  let (n, v) ← getNat u
  pure (⟨b, o, n⟩, v)

/-- The decoder constructors, numbered. -/
def kinds : List Kind :=
  [.firmwareVersion, .telemetry, .requestFirmwareVersion, .requestTelemetry, .setDutyCycle, .setCurrent,
    .setCurrentBrake, .setRPM, .setPosition, .setServoPosition]

/-- The accessors of a telemetry packet, numbered from 1; 0 is the constructor. -/
def telFields : List TelField :=
  [.tempFet, .tempMotor, .currentMotor, .currentIn, .dutyNow, .rpm, .vIn, .ampHours, .ampHoursCharged, .wattHours,
    .wattHoursCharged, .tachometer, .tachometerAbs, .faultCode, .pidPos, .controllerId, .tempMos1, .tempMos2,
    .tempMos3, .vD, .vQ]

/-- The accessors of a firmware-version packet, numbered from 1; 0 is the constructor. -/
def fwFields : List FwField := [.fwMajor, .fwMinor, .hwName, .uuid, .paired, .deviceVersion]

def getKind : Reader Kind := fun s => do
  let (b, t) ← getByte s
  match kinds[b.toNat]? with
  | some k => pure (k, t)
  | none => .error (.badCtor b)

/-- The constructor or one accessor, by its number in `l`. -/
def getCall {α : Type} (l : List α) : Reader (DecCall α) := fun s => do
  let (b, t) ← getByte s
  match b.toNat with
  | 0 => pure (.construct, t)
  | k + 1 =>
    match l[k]? with
    | some a => pure (.access a, t)
    | none => .error (.badAccessor b)

/-! ### The decoders -/

/-- The OP rows: R96's operation number, then its arguments. -/
def decodeOp : Reader Instr
  | [] => .error .empty
  | b :: t =>
    match b.toNat with
    | 0x01 => do
      let (tid, u) ← getByte t
      let (k, v) ← getKind u
      pure (.registerType tid k, v)
    | 0x02 => .ok (.setPacketHandler, t)
    | 0x03 => .ok (.setErrorHandler, t)
    | 0x04 => .ok (.start, t)
    | 0x05 => .ok (.stop, t)
    | 0x06 => do
      let (s, u) ← getBytes t
      pure (.rxAppend s, u)
    | 0x07 => .ok (.scanPass, t)
    | 0x08 => do
      let (w, u) ← getBytes t
      pure (.createPacket w, u)
    | 0x09 => do
      let (s, u) ← getBytes t
      pure (.crc16 s, u)
    | 0x0A => do
      let (n, u) ← getInt t
      pure (.buildFrame n, u)
    | 0x0B => do
      let (f, u) ← getFrame t
      pure (.sealFrame f, u)
    | 0x0C => do
      let (f, u) ← getFrame t
      pure (.extractFrame f.buf f.payOff f.payLen, u)
    | 0x0D => do
      let (f, u) ← getFrame t
      pure (.send f, u)
    | 0x0E => .ok (.loopTest, t)
    | 0x10 => .ok (.encRequestFwVersion, t)
    | 0x11 => .ok (.encRequestTelemetry, t)
    | 0x12 => do
      let (x, u) ← getReal t
      pure (.encSetDutyCycle x, u)
    | 0x13 => do
      let (x, u) ← getReal t
      pure (.encSetCurrent x, u)
    | 0x14 => do
      let (x, u) ← getReal t
      pure (.encSetCurrentBrake x, u)
    | 0x15 => do
      let (x, u) ← getReal t
      pure (.encSetRpm x, u)
    | 0x16 => do
      let (x, u) ← getReal t
      pure (.encSetPosition x, u)
    | 0x17 => do
      let (x, u) ← getReal t
      pure (.encSetServoPosition x, u)
    | 0x18 => do
      let (a, u) ← getCall telFields t
      let (f, v) ← getFrame u
      pure (.decTelemetry a f, v)
    | 0x19 => do
      let (a, u) ← getCall fwFields t
      let (f, v) ← getFrame u
      pure (.decFwVersion a f, v)
    | _ => .error (.unknownOp b)

/-- The SOF rows, matched on byte 0 of a window; NON_CANDIDATE is the default row (R97). -/
def decodeSof : Reader Instr
  | [] => .error .empty
  | b :: t =>
    if b = SOF_SMALL then .ok (.frameSmall, t)
    else if b = SOF_LARGE then .ok (.frameLarge, t)
    else .ok (.nonCandidate b, t)

/-- The inbound TID rows, matched on payload byte 0; UNKNOWN_TYPE is the default row (R97). -/
def decodeTidIn (c : Config) : Reader Instr
  | [] => .error .empty
  | b :: t =>
    if b = c.tidFwVersion then .ok (.firmwareVersion, t)
    else if b = c.tidGetValues then .ok (.telemetry, t)
    else .ok (.unknownType b, t)

/-- A big-endian field of `n` bytes as a `w`-bit pattern (R53, R86). -/
def getField (n w : Nat) : Reader (BitVec w) := fun s =>
  if s.length < n then .error .truncated else .ok (BitVec.ofNat w (Machine.beNat (s.take n)), s.drop n)

/-- The outbound TID rows: the payload of a command, its identifier and then its field (R86, R89, R204). -/
def decodeTidOut (c : Config) : Reader Instr
  | [] => .error .empty
  | b :: t =>
    if b = c.tidFwVersion then .ok (.requestFirmwareVersion, t)
    else if b = c.tidGetValues then .ok (.requestTelemetry, t)
    else if b = c.tidSetDuty then do
      let (v, u) ← getField 4 32 t
      pure (.setDutyCycle v, u)
    else if b = c.tidSetCurrent then do
      let (v, u) ← getField 4 32 t
      pure (.setCurrent v, u)
    else if b = c.tidSetCurrentBrake then do
      let (v, u) ← getField 4 32 t
      pure (.setCurrentBrake v, u)
    else if b = c.tidSetRpm then do
      let (v, u) ← getField 4 32 t
      pure (.setRPM v, u)
    else if b = c.tidSetPos then do
      let (v, u) ← getField 4 32 t
      pure (.setPosition v, u)
    else if b = c.tidSetServoPos then do
      let (v, u) ← getField 2 16 t
      pure (.setServoPosition v, u)
    else .error (.unknownCommand b)

/-- The instruction that `s` begins with in the format `fmt`, and the bytes after it. -/
def decode (c : Config) (fmt : Format) (s : Bytes) : Except DecodeError (Instr × Bytes) :=
  match fmt with
  | .sof => decodeSof s
  | .tidIn => decodeTidIn c s
  | .tidOut => decodeTidOut c s
  | .op => decodeOp s

/-! ### The encoder -/

def putBytes : Bytes → Bytes
  | [] => [0]
  | b :: s => 1 :: b :: putBytes s

/-- The base-256 digits of `n`, most significant first, before those of `acc`; the fuel `n` is always enough. -/
def digits : Nat → Nat → Bytes → Bytes
  | 0, _, acc => acc
  | fuel + 1, n, acc => if n = 0 then acc else digits fuel (n / 256) (BitVec.ofNat 8 n :: acc)

def putNat (n : Nat) : Bytes := putBytes (digits n n [])

def putInt : Int → Bytes
  | .ofNat m => 0 :: putNat m
  | .negSucc m => 1 :: putNat m

def putReal : RealArg → Bytes
  | .fin q => 0 :: (putInt q.num ++ putNat q.den)
  | .nan => [1]
  | .posInf => [2]
  | .negInf => [3]

def putFrame (f : Frame) : Bytes := putBytes f.buf ++ putNat f.payOff ++ putNat f.payLen

def putKind (k : Kind) : Bytes := [BitVec.ofNat 8 (kinds.idxOf k)]

def putCall {α : Type} [DecidableEq α] (l : List α) : DecCall α → Bytes
  | .construct => [0]
  | .access a => [BitVec.ofNat 8 (l.idxOf a + 1)]

/-- The bytes of an instruction in its format (`Instr.format`). -/
def encode (c : Config) : Instr → Bytes
  | .frameSmall => [SOF_SMALL]
  | .frameLarge => [SOF_LARGE]
  | .nonCandidate b => [b]
  | .requestFirmwareVersion => [c.tidFwVersion]
  | .firmwareVersion => [c.tidFwVersion]
  | .requestTelemetry => [c.tidGetValues]
  | .telemetry => [c.tidGetValues]
  | .setDutyCycle v => c.tidSetDuty :: Machine.beBytes 4 v.toNat
  | .setCurrent v => c.tidSetCurrent :: Machine.beBytes 4 v.toNat
  | .setCurrentBrake v => c.tidSetCurrentBrake :: Machine.beBytes 4 v.toNat
  | .setRPM v => c.tidSetRpm :: Machine.beBytes 4 v.toNat
  | .setPosition v => c.tidSetPos :: Machine.beBytes 4 v.toNat
  | .setServoPosition v => c.tidSetServoPos :: Machine.beBytes 2 v.toNat
  | .unknownType t => [t]
  | .registerType tid k => 0x01 :: tid :: putKind k
  | .setPacketHandler => [0x02]
  | .setErrorHandler => [0x03]
  | .start => [0x04]
  | .stop => [0x05]
  | .rxAppend s => 0x06 :: putBytes s
  | .scanPass => [0x07]
  | .createPacket w => 0x08 :: putBytes w
  | .crc16 s => 0x09 :: putBytes s
  | .buildFrame n => 0x0A :: putInt n
  | .sealFrame f => 0x0B :: putFrame f
  | .extractFrame raw off n => 0x0C :: putFrame ⟨raw, off, n⟩
  | .send f => 0x0D :: putFrame f
  | .loopTest => [0x0E]
  | .encRequestFwVersion => [0x10]
  | .encRequestTelemetry => [0x11]
  | .encSetDutyCycle x => 0x12 :: putReal x
  | .encSetCurrent x => 0x13 :: putReal x
  | .encSetCurrentBrake x => 0x14 :: putReal x
  | .encSetRpm x => 0x15 :: putReal x
  | .encSetPosition x => 0x16 :: putReal x
  | .encSetServoPosition x => 0x17 :: putReal x
  | .decTelemetry a f => 0x18 :: (putCall telFields a ++ putFrame f)
  | .decFwVersion a f => 0x19 :: (putCall fwFields a ++ putFrame f)

/-! ### The table's words -/

/-- The bytes of a table word: bit 0 is the least significant bit of the first byte, a later byte's bits count on
from it, and every bit above is 0. Sixteen zero bytes more than the word's own are laid out, more than any
instruction with zero operands has. -/
def wordBytes (nbits w : Nat) : Bytes :=
  (List.range (nbits / 8 + 16)).map fun i => BitVec.ofNat 8 (w % 2 ^ nbits / 256 ^ i)

/-- The format a table word is read in. The three formats of the table use the same byte values (R97), so a word
alone does not say which row is meant: an operation number is read as the operation, else an outbound identifier as
the outbound payload, and any other byte as the first byte of a window (DESIGN CHOICE, log entry 3). -/
def wordFormat (nbits w : Nat) : Format :=
  match decodeOp (wordBytes nbits w) with
  | .error (.unknownOp _) =>
    match decodeTidOut Machine.defaultConfig (wordBytes nbits w) with
    | .error (.unknownCommand _) => .sof
    | _ => .tidOut
  | _ => .op

/-- The instruction the decoder reads from a table word, under the default parameters. -/
def decodeTableWord (nbits w : Nat) : Option Instr :=
  match decode Machine.defaultConfig (wordFormat nbits w) (wordBytes nbits w) with
  | .ok (i, _) => some i
  | .error _ => none

end Sys2Proof
end

