-- ==== Sys2Proof/Machine/State.lean ====
section
/-!
DEFINITION. The machine's state: every element of 10_state.md R20, and the model's own fields, as plain data; its
value after reset (R39, R271); the reasons a step stops.
-/

namespace Sys2Proof.Machine

/-- The receive buffer's storage: a byte sequence indexed from 0 (R21, R50). An index at or beyond its length does
not exist; there is no unlisted address with a value. -/
abbrev Memory := Bytes

/-- The listed cells of a byte space: index and byte. -/
def Memory.cells (m : Memory) : List Host.Cell := m.zipIdx.map fun p => (p.2, p.1)

/-- The canonical form of a byte space: its cells are listed at 0, 1, 2, …, so their addresses strictly rise and
equal contents are equal lists. -/
def Memory.wf (m : Memory) : Bool := m.cells.map Prod.fst == List.range m.length

/-- `LOCK` (R23). -/
inductive Lock where
  | free
  | heldRx
  | heldScan
  deriving DecidableEq, Repr

/-- `SCAN_STATE` (R25). -/
inductive ScanState where
  | stopped
  | idle
  | armed
  | inPass
  deriving DecidableEq, Repr

/-- Where inside a pass the scanner stands: a coarsening of the sub-states of R155 (R25 allows a finer state
machine). The model's own field. -/
inductive SubState where
  /-- between two candidates: the next byte examined is `RXBUF[POS]` -/
  | search
  /-- the candidate at POS has passed steps 1 to 4 and its type is looked up next (`S_TYPE`) -/
  | typeLookup
  /-- the packet handler has been called and has not returned (R251, 93_implementation_defined.md U8) -/
  | inHandler
  deriving DecidableEq, Repr

/-- The transient registers of one CREATE_PACKET (R27) and of one CRC16 (R28). -/
structure WorkRegs where
  sof     : Byte
  lenb    : Nat
  hdr     : Nat
  n       : Half
  total   : Nat
  crcRx   : Half
  crcCalc : Half
  tid     : Byte
  crcAcc  : Half
  deriving DecidableEq, Repr

/-- `REGISTRY` (R30): a partial map from identifiers to decoder constructors, as its entries in rising order of
identifier. A constructor is named by its kind (R153). -/
abbrev Registry := List (Byte × Kind)

/-- A callback register: `UNSET` or `SET` (R34). -/
inductive HandlerReg where
  | unset
  | set
  deriving DecidableEq, Repr

/-- A byte space an access can miss (R16, R50). -/
inductive Space where
  | rxbuf
  | frame
  | payload
  deriving DecidableEq, Repr

/-- The fatal faults and what each records (R245). -/
inductive FatalFault where
  /-- BUILD_FRAME with a size outside 0..1024 -/
  | payloadSize (n : Int)
  /-- EXTRACT_FRAME with a frame length or a payload range out of bounds -/
  | frameRange (len off n : Nat)
  /-- REGISTER_TYPE of an identifier that has an entry -/
  | duplicateType (tid : Byte)
  /-- REGISTER_TYPE after the freeze -/
  | registryFrozen (tid : Byte)
  /-- CREATE_PACKET on an empty window -/
  | emptyWindow
  /-- an access not wholly inside its byte space -/
  | accessRange (space : Space) (addr n : Nat)
  deriving DecidableEq, Repr

/-- Why a candidate is permanently rejected (R241). -/
inductive RejectReason where
  | badSof
  | lenTooLarge
  | lenZero
  | badEof
  | badCrc
  | unknownType
  deriving DecidableEq, Repr

/-- The three results of CREATE_PACKET (R17). -/
inductive CreateResult where
  | packet (p : Packet)
  | needMore (k : Nat)
  | reject (r : RejectReason)
  deriving DecidableEq, Repr

/-- What a call returns to its caller (R16 `return v`, R96 column "result"). -/
inductive CallResult where
  /-- the call has no result value -/
  | none
  /-- START's `ok` -/
  | ok
  /-- START's `ALREADY_RUNNING` -/
  | alreadyRunning
  /-- CREATE_PACKET's result -/
  | created (r : CreateResult)
  /-- an encoder's or a decoder constructor's packet -/
  | packet (p : Packet)
  /-- CRC16's value -/
  | crc (v : Half)
  /-- BUILD_FRAME's, SEAL_FRAME's or EXTRACT_FRAME's frame -/
  | frame (f : Frame)
  /-- a scaled field's physical value -/
  | real (x : RealArg)
  /-- a raw signed integer field -/
  | int (i : Int)
  /-- a raw byte field -/
  | byte (b : Byte)
  /-- a byte string or a block of bytes -/
  | bytes (s : Bytes)
  deriving DecidableEq, Repr

/-- One call or callback that has not happened yet: an operation (`command = false`, OP format) or a command packet
the application spells by its payload (`command = true`, outbound TID format, R94). -/
structure Slot where
  command : Bool
  bytes   : Bytes
  deriving DecidableEq, Repr

/-- Reasons a step stops with a fault. -/
inductive Fault where
  /-- Raised by every instruction in a state with `FAULTED ≠ NONE` and by the step there: the machine has aborted
  (R35, R247). Safe: the spec says that no operation of any agent has a step. -/
  | aborted (f : FatalFault)
  deriving DecidableEq, Repr

/-- Reasons a step is refused. -/
inductive Refusal where
  /-- An instruction without a meaning yet. Safe. No arm of `exec` answers it in this model. -/
  | notModelled (mnemonic : String)
  /-- Raised by SCAN_PASS, LOOP_TEST and the wire rows outside the scanner state that enables them (R172 "Enabled
  when", R178, R25). Safe: the agent has no such step in that state. -/
  | notEnabled
  /-- Raised by START with `PKT_HANDLER = UNSET` (R183: "a START without a handler is refused: the model gives it no
  meaning"). Safe. -/
  | startWithoutHandler
  /-- Raised by the handler setters with `SCAN_STATE ≠ STOPPED` (R185, R186, R277). Safe. -/
  | handlerChangeWhileRunning
  /-- Raised by the step when the next pending record is no instruction (R95: a closed set of operations). Safe. -/
  | undecodable (e : DecodeError)
  deriving DecidableEq, Repr

/-- The whole state. -/
structure State where
  -- the spec's elements (R20)
  /-- `RXBUF` (R21) -/
  rxbuf : Memory
  /-- `LOCK` (R23) -/
  lock : Lock
  /-- `POS` (R24), transient -/
  pos : Nat
  /-- `SCAN_STATE` (R25) -/
  scanState : ScanState
  /-- `RUN` (R26) -/
  run : Bool
  /-- `SOF`, `LENB`, `HDR`, `N`, `TOTAL`, `CRC_RX`, `CRC_CALC`, `TID` (R27) and `CRC_ACC` (R28), transient -/
  work : WorkRegs
  /-- `REGISTRY` (R30) -/
  registry : Registry
  /-- `REG_FROZEN` (R30) -/
  regFrozen : Bool
  /-- `PKT_HANDLER` (R34) -/
  pktHandler : HandlerReg
  /-- `ERR_HANDLER` (R34) -/
  errHandler : HandlerReg
  /-- `POLL_INTERVAL` (R36), in microseconds -/
  pollInterval : Nat
  /-- `FAULTED` (R35); `none` is the spec's `NONE` -/
  faulted : Option FatalFault
  /-- `PKT_OUT` (R31) -/
  pktOut : List Packet
  /-- `TX_OUT` (R32) -/
  txOut : List Bytes
  /-- `REJ_LOG` (R33) -/
  rejLog : List RejectReason
  -- the model's own fields
  /-- the parameters (R7, R8); no step changes them -/
  cfg : Config
  /-- where inside a pass the scanner stands (R25, R155) -/
  subState : SubState
  /-- how many of the packet handler's coming calls return before one that does not (R251, R276); `none` is a handler that
  always returns (R63). An input of the machine, used up call by call -/
  handlerLeft : Option Nat
  /-- the chunks of receive callbacks that wait for the lock (R23, R248) -/
  rxWait : List Bytes
  /-- whether the application waits in a STOP's join (R184): its next calls on the block
  (`Instr.waitsForJoin`) come after the join -/
  joinWait : Bool
  /-- what the last application call returned (R16, R17) -/
  result : CallResult
  /-- how many times BUILD_FRAME has drawn unwritten bytes (93_implementation_defined.md U3) -/
  freeCount : Nat
  /-- the calls and callbacks still to happen, the next one first (R11) -/
  pending : List Slot
  deriving DecidableEq, Repr

/-- The transient registers at reset: unspecified by the spec (R39, R271). DESIGN CHOICE, unsafe: 0 (log entry 21);
no operation's result depends on them. -/
def WorkRegs.reset : WorkRegs :=
  { sof := 0, lenb := 0, hdr := 0, n := 0, total := 0, crcRx := 0, crcCalc := 0, tid := 0, crcAcc := 0 }

/-- The machine after reset (R39, R271): creation of the block's objects (R270). `POS` and the transient registers
are unspecified there (DESIGN CHOICE 0, log entry 21); the model's own fields are as log entries 1, 4 to 7, 9, 12 to
15, 17 and 18 say. -/
def State.reset : State where
  rxbuf          := []
  lock           := .free
  pos            := 0
  scanState      := .stopped
  run            := false
  work           := WorkRegs.reset
  registry       := []
  regFrozen      := false
  pktHandler     := .unset
  errHandler     := .unset
  pollInterval   := 10000
  faulted        := none
  pktOut         := []
  txOut          := []
  rejLog         := []
  cfg            := defaultConfig
  subState       := .search
  handlerLeft    := none
  rxWait         := []
  joinWait       := false
  result         := .none
  freeCount      := 0
  pending        := []

end Sys2Proof.Machine
end

