-- ==== Sys2Proof/Machine/Ops.lean ====
section
/-!
DEFINITION. The named operations over the state: taking a fatal fault, the common precondition, the lock, the
registry, the byte spaces, the output traces.
-/

namespace Sys2Proof.Machine

/-- The outcome of one step of this machine. -/
abbrev Out := Host.Outcome State Fault Refusal

/-! ### Taking an exception -/

/-- TAKING A FATAL FAULT (R247), the block's one exception entry: the operation makes none of its other changes, so
`s` is the state it began in; `FAULTED` takes the fault; nothing is saved, no mode changes and control goes nowhere.
There is no return (R250: "After a fatal fault nothing resumes"). -/
def raise (f : FatalFault) (s : State) : State := { s with faulted := some f }

/-- The common precondition `FAULTED = NONE` of every operation of every agent (R170, R247). -/
def unlessFaulted (s : State) (k : Out) : Out :=
  match s.faulted with
  | none => k
  | some f => .fault (.aborted f)

/-- The end of an operation that computes a value: the next state it gives, or the fault it raises (R16, R17). -/
def orRaise {α : Type} (s : State) (r : Except FatalFault α) (k : α → State) : Out :=
  match r with
  | .ok a => .next (k a)
  | .error f => .next (raise f s)

/-- The end of an application call: its result goes to its caller and to nobody else (R17). -/
def returns (r : CallResult) (s : State) : State := { s with result := r }

/-! ### The byte spaces (R16, R50) -/

/-- `MemRead` (R16): the `n`-byte big-endian value at `addr`. -/
def memRead (sp : Space) (m : Bytes) (addr n : Nat) : Except FatalFault Nat :=
  if addr + n ≤ m.length then .ok (beNat (slice m addr n)) else .error (.accessRange sp addr n)

/-- A block of `n` bytes at `addr`, with the range requirement of R16. -/
def memBlock (sp : Space) (m : Bytes) (addr n : Nat) : Except FatalFault Bytes :=
  if addr + n ≤ m.length then .ok (slice m addr n) else .error (.accessRange sp addr n)

/-- `MemWrite` (R16): the `n` low bytes of `v`, most significant first, at `addr`. -/
def memWrite (sp : Space) (m : Bytes) (addr n v : Nat) : Except FatalFault Bytes :=
  if addr + n ≤ m.length then .ok (overwrite m addr (beBytes n v)) else .error (.accessRange sp addr n)

/-- One byte of the receive buffer, if the index exists (R21, R50). -/
def readByte (s : State) (a : Nat) : Option Byte := s.rxbuf[a]?

/-! ### The receive buffer and the lock (R21, R23) -/

/-- The window of the candidate at POS: `RXBUF[POS..)` (R51). -/
def window (s : State) : Bytes := s.rxbuf.drop s.pos

/-- Append bytes to the receive buffer (R171). -/
def append (chunk : Bytes) (s : State) : State := { s with rxbuf := s.rxbuf ++ chunk }

/-- Release the lock: the receive callbacks that wait for it append their chunks, in the order they came, each one
whole (R23, R60, R248, R282). -/
def release (s : State) : State :=
  { s with lock := .free, rxbuf := s.rxbuf ++ s.rxWait.flatten, rxWait := [] }

/-- A receive callback waits for the lock with its chunk (R23, R248: "the waiting callback; the bytes are not lost"). -/
def awaitLock (chunk : Bytes) (s : State) : State := { s with rxWait := s.rxWait ++ [chunk] }

/-! ### The registry (R30) -/

/-- `REGISTRY[tid]`. -/
def Registry.find (r : Registry) (tid : Byte) : Option Kind :=
  match r with
  | [] => none
  | (t, k) :: rest => if t = tid then some k else Registry.find rest tid

/-- `REGISTRY[tid] <- ctor`, in rising order of identifier. -/
def Registry.insert (r : Registry) (tid : Byte) (ctor : Kind) : Registry :=
  match r with
  | [] => [(tid, ctor)]
  | (t, k) :: rest =>
    if tid < t then (tid, ctor) :: (t, k) :: rest
    else if tid = t then (tid, ctor) :: rest
    else (t, k) :: Registry.insert rest tid ctor

/-- The canonical form of a registry: identifiers strictly rising, so that each has at most one entry. -/
abbrev Registry.wf (r : Registry) : Prop := r.Pairwise fun a b => a.1 < b.1

/-- The freeze (R142). -/
def freeze (s : State) : State := { s with regFrozen := true }

/-! ### The output traces -/

/-- `emit p` (R16, R31): the packet handler is called with `p`, which uses up one of its coming calls. -/
def emit (p : Packet) (s : State) : State :=
  { s with pktOut := s.pktOut ++ [p], handlerLeft := s.handlerLeft.map (· - 1) }

/-- What a rejection does (R243), the block's only trap entry: POS moves by one byte and the ghost log grows. -/
def rejectHere (r : RejectReason) (s : State) : State :=
  { s with rejLog := s.rejLog ++ [r], pos := s.pos + 1, subState := .search }

/-- `sendBytes` (R32, R182). -/
def transmit (b : Bytes) (s : State) : State := { s with txOut := s.txOut ++ [b] }

end Sys2Proof.Machine
end

