-- ==== Sys2Proof/Machine/Operands.lean ====
section
/-!
DEFINITION. The operand forms: a frame's payload view (R40, R50), the fixed-point numbers of R203, the telemetry
fields of R221 and the firmware-version record of R230.
-/

namespace Sys2Proof.Machine

/-! ### Frames and packets -/

/-- The payload of a frame: the sub-range `F.buf[pay_off .. pay_off + pay_len)` (R40, R50). R15 gives a sub-range only
within the sequence; of a frame value whose range passes the end of its buffer, which no rule makes, the view ends with the
buffer (DESIGN CHOICE, log entry 39). -/
def payload (f : Frame) : Bytes := slice f.buf f.payOff f.payLen

/-- `MemWrite` through the payload view (R50: "A write through the payload view is a write to the frame buffer"). -/
def writePayload (f : Frame) (addr n v : Nat) : Except FatalFault Frame :=
  if addr + n ≤ f.payLen then do
    let b ← memWrite .frame f.buf (f.payOff + addr) n v
    pure { f with buf := b }
  else .error (.accessRange .payload addr n)

/-- A packet's human-readable type name: its variant's name as R200 writes it (R41). -/
def Kind.name : Kind → String
  | .firmwareVersion => "FirmwareVersion"
  | .telemetry => "Telemetry"
  | .requestFirmwareVersion => "RequestFirmwareVersion"
  | .requestTelemetry => "RequestTelemetry"
  | .setDutyCycle => "SetDutyCycle"
  | .setCurrent => "SetCurrent"
  | .setCurrentBrake => "SetCurrentBrake"
  | .setRPM => "SetRPM"
  | .setPosition => "SetPosition"
  | .setServoPosition => "SetServoPosition"

/-- `p.name` (R41). -/
def packetName (p : Packet) : String := Kind.name p.kind

/-- A decoder constructor applied to a frame (R153): it stores the frame and does nothing else. -/
def construct (k : Kind) (f : Frame) : Packet := { frame := f, kind := k }

/-! ### Numbers (R203) -/

/-- `2^k` for an integer `k`. -/
def pow2 : Int → Rat
  | .ofNat n => mkRat (2 ^ n) 1
  | .negSucc n => mkRat 1 (2 ^ (n + 1))

/-- The integer `e` with `2^e <= n / d < 2^(e + 1)`, for positive `n` and `d`. -/
def floorLog2 (n d : Nat) : Int :=
  let t : Int := (n.log2 : Int) - (d.log2 : Int)
  if mkRat n d < pow2 t then t - 1 else t

/-- The integer nearest to `n / d`; of two equally near the even one. -/
def nearestEven (n d : Nat) : Nat :=
  let q := n / d
  let r := n % d
  if 2 * r < d then q else if d < 2 * r then q + 1 else q + q % 2

/-- The exponent of the last place of a number of size `n / d` in a binary type: subnormal numbers share the least. -/
def lastPlace (fracBits emax n d : Nat) : Int :=
  max (floorLog2 n d - fracBits) (1 - (emax : Int) - fracBits)

/-- The value of a binary type nearest to `q` (R203 "rounds … once, to nearest"); beyond the greatest value, an infinity.
Ties to even and subnormal numbers are as in the common formats (PRESUMED, log entry 17). -/
def roundBinary (fracBits emax : Nat) (q : Rat) : RealArg :=
  if q.num = 0 then .fin 0
  else
    let k := lastPlace fracBits emax q.num.natAbs q.den
    let a := mkRat q.num.natAbs q.den / pow2 k
    let m := mkRat (nearestEven a.num.natAbs a.den) 1 * pow2 k
    if pow2 (emax + 1) ≤ m then (if 0 < q.num then .posInf else .negInf)
    else if 0 < q.num then .fin m
    else .fin (-m)

/-- `q` as a value of REAL (R8, R203): itself, or the nearest value of a binary type. -/
def toReal (t : RealType) (q : Rat) : RealArg :=
  match t with
  | .exact => .fin q
  | .binary fracBits emax => roundBinary fracBits emax q

/-- `x × scale` as the product of REAL (R203). -/
def realMul (t : RealType) (x : RealArg) (scale : Nat) : RealArg :=
  match x with
  | .fin q => toReal t (q * (scale : Rat))
  | .nan => .nan
  | .posInf => .posInf
  | .negInf => .negInf

/-- An argument as a value of REAL: the nearest one, which a value of the type is itself (log entry 17). -/
def readReal (t : RealType) (x : RealArg) : RealArg :=
  match x with
  | .fin q => toReal t q
  | .nan => .nan
  | .posInf => .posInf
  | .negInf => .negInf

/-- `FIX(x, scale, W)`: the product truncated toward zero and wrapped to `W` bits. Where the product is no number the
result is undefined and free (R203; 93_implementation_defined.md U6; log entry 16). -/
def fix (t : RealType) (x : RealArg) (scale w : Nat) : BitVec w :=
  match realMul t (readReal t x) scale with
  | .fin q => BitVec.ofInt w (trunc q)
  | .nan => Config.freeFix x scale w
  | .posInf => Config.freeFix x scale w
  | .negInf => Config.freeFix x scale w

/-- `UNFIX(v, scale, W)`: the signed value over the scale, exactly. -/
def unfix (v scale w : Nat) : Rat := mkRat (signedOf w v) scale

/-! ### Telemetry fields (R221) -/

/-- How a field's bytes are read (R202). -/
inductive Reading where
  | scaled (pos : FieldPos) (scale : Nat)
  | rawInt (pos : FieldPos)
  | rawByte (pos : FieldPos)
  deriving DecidableEq, Repr

/-- The table of R221. The first row is the source's own (R223). -/
def telReading (t : TelLayout) : TelField → Reading
  | .tempFet => .scaled ⟨1, .w16⟩ 10
  | .tempMotor => .scaled t.tempMotor 10
  | .currentMotor => .scaled t.currentMotor 100
  | .currentIn => .scaled t.currentIn 100
  | .dutyNow => .scaled t.dutyNow 1000
  | .rpm => .scaled t.rpm 1
  | .vIn => .scaled t.vIn 10
  | .ampHours => .scaled t.ampHours 10000
  | .ampHoursCharged => .scaled t.ampHoursCharged 10000
  | .wattHours => .scaled t.wattHours 10000
  | .wattHoursCharged => .scaled t.wattHoursCharged 10000
  | .tachometer => .rawInt t.tachometer
  | .tachometerAbs => .rawInt t.tachometerAbs
  | .faultCode => .rawByte t.faultCode
  | .pidPos => .scaled t.pidPos 1000000
  | .controllerId => .rawByte t.controllerId
  | .tempMos1 => .scaled t.tempMos1 10
  | .tempMos2 => .scaled t.tempMos2 10
  | .tempMos3 => .scaled t.tempMos3 10
  | .vD => .scaled t.vD 1000
  | .vQ => .scaled t.vQ 1000

/-- One accessor's value (R202), a scaled one as a value of REAL; a field not wholly inside the payload raises
ACCESS_RANGE (R222). A raw byte is the byte at its offset, whatever the width of its field (R202; log entry 35). -/
def readField (t : RealType) (p : Bytes) : Reading → Except FatalFault CallResult
  | .scaled pos scale => do
    let v ← memRead .payload p pos.off (widthBytes pos.w)
    pure (.real (toReal t (unfix v scale (8 * widthBytes pos.w))))
  | .rawInt pos => do
    let v ← memRead .payload p pos.off (widthBytes pos.w)
    pure (.int (signedOf (8 * widthBytes pos.w) v))
  | .rawByte pos => do
    let _ ← memRead .payload p pos.off (widthBytes pos.w)
    let v ← memRead .payload p pos.off 1
    pure (.byte (BitVec.ofNat 8 v))

/-! ### The firmware-version record (R230) -/

/-- The smallest index `>= i` whose byte is NUL, in the bytes `p` that start at index `i`; the read beyond the last
byte raises ACCESS_RANGE. -/
def findNul : Bytes → Nat → Except FatalFault Nat
  | [], i => .error (.accessRange .payload i 1)
  | b :: t, i => if b = 0 then .ok i else findNul t (i + 1)

/-- `z` of R230: the smallest index `>= 3` with `P[z] = 0x00`. -/
def nulIndex (p : Bytes) : Except FatalFault Nat := findNul (p.drop 3) 3

/-- One accessor's value (R230). -/
def readFw (p : Bytes) : FwField → Except FatalFault CallResult
  | .fwMajor => do
    let v ← memRead .payload p 1 1
    pure (.byte (BitVec.ofNat 8 v))
  | .fwMinor => do
    let v ← memRead .payload p 2 1
    pure (.byte (BitVec.ofNat 8 v))
  | .hwName => do
    let z ← nulIndex p
    pure (.bytes (slice p 3 (z - 3)))
  | .uuid => do
    let z ← nulIndex p
    let b ← memBlock .payload p (z + 1) 12
    pure (.bytes b)
  | .paired => do
    let z ← nulIndex p
    let v ← memRead .payload p (z + 13) 1
    pure (.byte (BitVec.ofNat 8 v))
  | .deviceVersion => do
    let z ← nulIndex p
    let v ← memRead .payload p (z + 14) 1
    pure (.byte (BitVec.ofNat 8 v))

end Sys2Proof.Machine
end

