-- ==== Sys2Proof/Machine/Decoders.lean ====
section
/-!
DEFINITION. The inbound record decoders and their accessors (44_packet_types.md R202, R220 to R223, R230, R231).
-/

namespace Sys2Proof.Machine

/-- DEC_TELEMETRY (R220): the constructor, or one accessor of the packet it makes. An accessor reads the packet's own
frame and writes nothing (R231). -/
def execDecTelemetry (call : DecCall TelField) (f : Frame) (s : State) : Out :=
  unlessFaulted s <|
    match call with
    | .construct => .next (returns (.packet (construct .telemetry f)) s)
    | .access a => orRaise s (readField s.cfg.real (payload f) (telReading s.cfg.tel a)) fun r => returns r s

/-- DEC_FW_VERSION (R230): the constructor, or one accessor of the packet it makes. -/
def execDecFwVersion (call : DecCall FwField) (f : Frame) (s : State) : Out :=
  unlessFaulted s <|
    match call with
    | .construct => .next (returns (.packet (construct .firmwareVersion f)) s)
    | .access a => orRaise s (readFw (payload f) a) fun r => returns r s

end Sys2Proof.Machine
end

