-- ==== Sys2Proof/Machine/Crc.lean ====
section
/-!
DEFINITION. The CRC engine (40_crc.md R110 to R116) and CRC16's meaning.
-/

namespace Sys2Proof.Machine

/-- One bit of R111: the register moves left by one, and the polynomial is added where bit 15 falls out. -/
def crcBit (poly acc : Half) : Half := if acc.getLsbD 15 then (acc <<< 1) ^^^ poly else acc <<< 1

/-- `k` bits of R111. -/
def crcBits (poly : Half) : Nat → Half → Half
  | 0, acc => acc
  | k + 1, acc => crcBits poly k (crcBit poly acc)

/-- One byte of R111: reflected where `CRC_REFIN` says so, added into the high byte, then eight bits. -/
def crcByte (c : CrcParams) (acc : Half) (b : Byte) : Half :=
  crcBits c.poly 8 (acc ^^^ ((if c.refin then b.reverse else b).setWidth 16 <<< 8))

/-- `CRC_ACC` after the byte loop over `s` (R111, R113). -/
def crcFold (c : CrcParams) (acc : Half) (s : Bytes) : Half := s.foldl (crcByte c) acc

/-- The end of R111: the reflection and the final exclusive or. -/
def crcFinish (c : CrcParams) (acc : Half) : Half := (if c.refout then acc.reverse else acc) ^^^ c.xorout

/-- `CRC16(s)` (R111). -/
def crc16 (c : CrcParams) (s : Bytes) : Half := crcFinish c (crcFold c c.init s)

/-- CRC16 as an operation (R111): the value goes to the caller; `CRC_ACC` keeps the accumulator (R28). -/
def execCrc16 (bytes : Bytes) (s : State) : Out :=
  unlessFaulted s <|
    .next (returns (.crc (crc16 s.cfg.crc bytes))
      { s with work := { s.work with crcAcc := crcFold s.cfg.crc s.cfg.crc.init bytes } })

end Sys2Proof.Machine
end

