-- ==== Sys2Proof/Machine/Codec.lean ====
section
/-!
DEFINITION. The frame codec (41_frame_codec.md): BUILD_FRAME, SEAL_FRAME, EXTRACT_FRAME.
-/

namespace Sys2Proof.Machine

/-- `BUILD_FRAME(n)` (R121). `free` gives the payload and CRC bytes, which have no specified value until they are
written (93_implementation_defined.md U3). -/
def buildFrame (free : Nat → Byte) (n : Int) : Except FatalFault Frame :=
  if n < 0 ∨ n > MAX_PAYLOAD then .error (.payloadSize n)
  else
    let k := n.toNat
    let unwritten := (List.range (k + CRC_BYTES)).map free
    if k ≤ SMALL_MAX then
      .ok { buf := [SOF_SMALL, BitVec.ofNat 8 k] ++ unwritten ++ [EOF_VAL], payOff := HDR_SMALL, payLen := k }
    else
      .ok { buf := [SOF_LARGE, BitVec.ofNat 8 (k / 256), BitVec.ofNat 8 k] ++ unwritten ++ [EOF_VAL],
            payOff := HDR_LARGE, payLen := k }

/-- `SEAL_FRAME(F)` (R124): the CRC of the payload is written right after it, high byte first. A frame whose payload
or CRC bytes do not lie inside its buffer is none that BUILD_FRAME makes; the access outside raises ACCESS_RANGE
(R16; log entry 24). -/
def sealFrame (c : CrcParams) (f : Frame) : Except FatalFault Frame := do
  let p ← memBlock .frame f.buf f.payOff f.payLen
  let v := crc16 c p
  let b ← memWrite .frame f.buf (f.payOff + f.payLen) 1 (v.toNat / 256)
  let b ← memWrite .frame b (f.payOff + f.payLen + 1) 1 v.toNat
  pure { f with buf := b }

/-- `EXTRACT_FRAME(raw, off, n)` (R127). -/
def extractFrame (raw : Bytes) (off n : Nat) : Except FatalFault Frame :=
  if raw.length < MIN_FRAME_SIZE ∨ raw.length > MAX_FRAME_SIZE then .error (.frameRange raw.length off n)
  else if off < 1 then .error (.frameRange raw.length off n)
  else if off + n + 1 > raw.length then .error (.frameRange raw.length off n)
  else .ok { buf := raw, payOff := off, payLen := n }

/-- `SMALL(P)` (R94). -/
def smallFrame (c : CrcParams) (p : Bytes) : Bytes :=
  [SOF_SMALL, BitVec.ofNat 8 p.length] ++ p ++ halfBytes (crc16 c p) ++ [EOF_VAL]

/-- `LARGE(P)` (R94). -/
def largeFrame (c : CrcParams) (p : Bytes) : Bytes :=
  [SOF_LARGE, BitVec.ofNat 8 (p.length / 256), BitVec.ofNat 8 p.length] ++ p ++ halfBytes (crc16 c p) ++ [EOF_VAL]

/-- `FRAME(P)` (R94, R125). -/
def frameOf (c : CrcParams) (p : Bytes) : Bytes :=
  if p.length ≤ SMALL_MAX then smallFrame c p else largeFrame c p

/-- BUILD_FRAME (R121). -/
def execBuildFrame (n : Int) (s : State) : Out :=
  unlessFaulted s <|
    orRaise s (buildFrame (Config.freeByte s.freeCount) n) fun f =>
      returns (.frame f) { s with freeCount := s.freeCount + 1 }

/-- SEAL_FRAME (R124). -/
def execSealFrame (f : Frame) (s : State) : Out :=
  unlessFaulted s <| orRaise s (sealFrame s.cfg.crc f) fun g => returns (.frame g) s

/-- EXTRACT_FRAME (R127). -/
def execExtractFrame (raw : Bytes) (off n : Nat) (s : State) : Out :=
  unlessFaulted s <| orRaise s (extractFrame raw off n) fun f => returns (.frame f) s

end Sys2Proof.Machine
end

