-- ==== Sys2Proof/Machine/Encoders.lean ====
section
/-!
DEFINITION. The outbound commands (44_packet_types.md R200 to R213): the eight encoders, and the eight outbound TID
rows, which spell the same packets by their payloads (R94).
-/

namespace Sys2Proof.Machine

/-- `ENC` of R201: a new frame, the identifier as payload byte 0, the `nbytes` field bytes of `v` after it, the CRC. -/
def encPacket (c : CrcParams) (free : Nat → Byte) (tid : Byte) (k : Kind) (nbytes v : Nat) :
    Except FatalFault Packet := do
  let f ← buildFrame free (1 + nbytes : Nat)
  let f ← writePayload f 0 1 tid.toNat
  let f ← writePayload f 1 nbytes v
  let f ← sealFrame c f
  pure (construct k f)

/-- A command call: its packet goes to the caller; no other state is touched (R201). -/
def command (tid : Byte) (k : Kind) (nbytes v : Nat) (s : State) : Out :=
  unlessFaulted s <|
    orRaise s (encPacket s.cfg.crc (Config.freeByte s.freeCount) tid k nbytes v) fun p => returns (.packet p) s

/-! ### The encoders (R205 to R212) -/

/-- ENC_REQUEST_FW_VERSION (R205). -/
def execEncRequestFwVersion (s : State) : Out := command s.cfg.tidFwVersion .requestFirmwareVersion 0 0 s

/-- ENC_REQUEST_TELEMETRY (R206). -/
def execEncRequestTelemetry (s : State) : Out := command s.cfg.tidGetValues .requestTelemetry 0 0 s

/-- ENC_SET_DUTY_CYCLE (R207). -/
def execEncSetDutyCycle (x : RealArg) (s : State) : Out :=
  command s.cfg.tidSetDuty .setDutyCycle 4 (fix s.cfg.real x 100000 32).toNat s

/-- ENC_SET_CURRENT (R208). -/
def execEncSetCurrent (x : RealArg) (s : State) : Out :=
  command s.cfg.tidSetCurrent .setCurrent 4 (fix s.cfg.real x 1000 32).toNat s

/-- ENC_SET_CURRENT_BRAKE (R209). -/
def execEncSetCurrentBrake (x : RealArg) (s : State) : Out :=
  command s.cfg.tidSetCurrentBrake .setCurrentBrake 4 (fix s.cfg.real x 1000 32).toNat s

/-- ENC_SET_RPM (R210). -/
def execEncSetRpm (x : RealArg) (s : State) : Out :=
  command s.cfg.tidSetRpm .setRPM 4 (fix s.cfg.real x 1 32).toNat s

/-- ENC_SET_POSITION (R211). -/
def execEncSetPosition (x : RealArg) (s : State) : Out :=
  command s.cfg.tidSetPos .setPosition 4 (fix s.cfg.real x 1000000 32).toNat s

/-- ENC_SET_SERVO_POSITION (R212). -/
def execEncSetServoPosition (x : RealArg) (s : State) : Out :=
  command s.cfg.tidSetServoPos .setServoPosition 2 (fix s.cfg.real x 1000 16).toNat s

/-! ### The outbound TID rows: the packet with the payload the row spells (R89, R94, R204) -/

/-- RequestFirmwareVersion: payload `[TID_FW_VERSION]`. -/
def execRequestFirmwareVersion (s : State) : Out := command s.cfg.tidFwVersion .requestFirmwareVersion 0 0 s

/-- RequestTelemetry: payload `[TID_GET_VALUES]`. -/
def execRequestTelemetry (s : State) : Out := command s.cfg.tidGetValues .requestTelemetry 0 0 s

/-- SetDutyCycle: payload `[TID_SET_DUTY]` and the 32-bit field. -/
def execSetDutyCycle (field : Quad) (s : State) : Out := command s.cfg.tidSetDuty .setDutyCycle 4 field.toNat s

/-- SetCurrent: payload `[TID_SET_CURRENT]` and the 32-bit field. -/
def execSetCurrent (field : Quad) (s : State) : Out := command s.cfg.tidSetCurrent .setCurrent 4 field.toNat s

/-- SetCurrentBrake: payload `[TID_SET_CURRENT_BRAKE]` and the 32-bit field. -/
def execSetCurrentBrake (field : Quad) (s : State) : Out :=
  command s.cfg.tidSetCurrentBrake .setCurrentBrake 4 field.toNat s

/-- SetRPM: payload `[TID_SET_RPM]` and the 32-bit field. -/
def execSetRPM (field : Quad) (s : State) : Out := command s.cfg.tidSetRpm .setRPM 4 field.toNat s

/-- SetPosition: payload `[TID_SET_POS]` and the 32-bit field. -/
def execSetPosition (field : Quad) (s : State) : Out := command s.cfg.tidSetPos .setPosition 4 field.toNat s

/-- SetServoPosition: payload `[TID_SET_SERVO_POS]` and the 16-bit field. -/
def execSetServoPosition (field : Half) (s : State) : Out :=
  command s.cfg.tidSetServoPos .setServoPosition 2 field.toNat s

end Sys2Proof.Machine
end

