-- ==== Sys2Proof/Machine/Flags.lean ====
section
/-!
DEFINITION. The flags of 00_scope.md R9 (the result class of CREATE_PACKET, the phases of 60_exceptions.md R253) and
the tabulation codes of R241 and R245.
-/

namespace Sys2Proof.Machine

/-- The source's output `bytesNeeded` (R27): the shortfall of a NeedMore, else 0. -/
def bytesNeeded : CreateResult → Nat
  | .needMore k => k
  | .packet _ => 0
  | .reject _ => 0

/-- The code of a rejection reason (R241). -/
def RejectReason.code : RejectReason → Nat
  | .badSof => 1
  | .lenTooLarge => 2
  | .lenZero => 3
  | .badEof => 4
  | .badCrc => 5
  | .unknownType => 6

/-- The code of a fatal fault (R245). -/
def FatalFault.code : FatalFault → Nat
  | .payloadSize _ => 1
  | .frameRange _ _ _ => 2
  | .duplicateType _ => 3
  | .registryFrozen _ => 4
  | .emptyWindow => 5
  | .accessRange _ _ _ => 6

/-- The startup phase: registration allowed, no decoding yet (R253). -/
def startupPhase (s : State) : Bool := !s.regFrozen

/-- A STOP is pending (R37, R248): the flag is clear and the loop has not ended. -/
def stopPending (s : State) : Bool := !s.run && (s.scanState != .stopped)

end Sys2Proof.Machine
end

