-- ==== Sys2Proof/Machine/Factory.lean ====
section
/-!
DEFINITION. The packet registry and the factory (42_factory_dispatch.md): REGISTER_TYPE, CREATE_PACKET.
-/

namespace Sys2Proof.Machine

/-- What steps 1 to 4 of CREATE_PACKET decide of a window that begins with an SOF value (R145 to R150). -/
inductive Verdict where
  | needMore (k : Nat)
  | reject (r : RejectReason)
  | valid
  deriving DecidableEq, Repr

/-- Steps 3 and 4 (R148 to R150): the total length, then EOF, then CRC. `r` holds HDR and N. -/
def examineBody (c : CrcParams) (w : Bytes) (r : WorkRegs) : WorkRegs × Verdict :=
  let n := r.n.toNat
  let r := { r with total := r.hdr + n + TRAILER_BYTES }
  if w.length < r.total then (r, .needMore (r.total - w.length))
  else if byteAt w (r.total - 1) ≠ EOF_VAL then (r, .reject .badEof)
  else
    let acc := crcFold c c.init (slice w r.hdr n)
    let r := { r with
      crcRx := half (byteAt w (r.hdr + n)) (byteAt w (r.hdr + n + 1))
      crcAcc := acc
      crcCalc := crcFinish c acc }
    if r.crcRx ≠ r.crcCalc then (r, .reject .badCrc) else (r, .valid)

/-- Step 2 (R147): the declared length and its bounds. `r` holds LENB and HDR, and the header is in the window. -/
def examineLength (c : CrcParams) (w : Bytes) (r : WorkRegs) : WorkRegs × Verdict :=
  let n : Half := if r.lenb = 1 then (byteAt w 1).setWidth 16 else half (byteAt w 1) (byteAt w 2)
  let r := { r with n := n }
  if n.toNat > MAX_PAYLOAD then (r, .reject .lenTooLarge)
  else if n = 0 then (r, .reject .lenZero)
  else examineBody c w r

/-- Steps 1 to 4 (R145 to R150) on a window whose first byte is the SOF value `sof` with `lenb` length bytes. -/
def examine (c : CrcParams) (sof : Byte) (lenb : Nat) (w : Bytes) (r : WorkRegs) : WorkRegs × Verdict :=
  let r := { r with sof := sof, lenb := lenb, hdr := 1 + lenb }
  if w.length < r.hdr then (r, .needMore (r.hdr - w.length)) else examineLength c w r

/-- Step 5 (R151, R152): the type lookup, the extraction, the decoder constructor. `r` holds HDR, N and TOTAL. -/
def dispatch (reg : Registry) (w : Bytes) (tid : Byte) (r : WorkRegs) :
    Except FatalFault (WorkRegs × CreateResult) :=
  let r := { r with tid := tid }
  match Registry.find reg tid with
  | none => .ok (r, .reject .unknownType)
  | some k => do
    let f ← extractFrame (w.take r.total) r.hdr r.n.toNat
    pure (r, .packet (construct k f))

/-- From the verdict of steps 1 to 4 to the result (R144). -/
def conclude (reg : Registry) (w : Bytes) : WorkRegs × Verdict → Except FatalFault (WorkRegs × CreateResult)
  | (r, .needMore k) => .ok (r, .needMore k)
  | (r, .reject e) => .ok (r, .reject e)
  | (r, .valid) => dispatch reg w (byteAt w r.hdr) r

/-- `CREATE_PACKET(w)` (R144): its result, and the transient registers as its steps leave them. -/
def createPacket (c : CrcParams) (reg : Registry) (w : Bytes) (r : WorkRegs) :
    Except FatalFault (WorkRegs × CreateResult) :=
  match w with
  | [] => .error .emptyWindow
  | b :: _ =>
    if b = SOF_SMALL then conclude reg w (examine c b 1 w r)
    else if b = SOF_LARGE then conclude reg w (examine c b 2 w r)
    else .ok ({ r with sof := b }, .reject .badSof)

/-- REGISTER_TYPE (R141, R142). -/
def execRegisterType (tid : Byte) (ctor : Kind) (s : State) : Out :=
  unlessFaulted s <|
    if s.regFrozen then .next (raise (.registryFrozen tid) s)
    else
      match Registry.find s.registry tid with
      | some _ => .next (raise (.duplicateType tid) s)
      | none => .next (returns .none { s with registry := Registry.insert s.registry tid ctor })

/-- CREATE_PACKET called directly (R144): the result goes to the caller and the registry freezes (R142). -/
def execCreatePacket (w : Bytes) (s : State) : Out :=
  unlessFaulted s <|
    orRaise s (createPacket s.cfg.crc s.registry w s.work) fun q =>
      returns (.created q.2) (freeze { s with work := q.1 })

end Sys2Proof.Machine
end

