-- ==== Sys2Proof/Machine/Scanner.lean ====
section
/-!
DEFINITION. The stream reassembler (43_reassembler.md): RX_APPEND, SCAN_PASS, LOOP_TEST, START, STOP, the handler
setters and SEND.
-/

namespace Sys2Proof.Machine

/-- How one turn of the scan loop ends (R172). -/
inductive Turn where
  /-- `continue loop` -/
  | again (s : State)
  /-- `exit loop` -/
  | leave (s : State)
  /-- the packet handler has been called and does not return (R251) -/
  | hung (s : State)
  deriving DecidableEq, Repr

/-- Step 1 of a pass (R172): take the lock, start at the buffer's first byte. -/
def passBegin (s : State) : State :=
  { s with lock := .heldScan, pos := 0, scanState := .inPass, subState := .search }

/-- Steps 4 to 6 of a pass (R176, R177): erase up to POS, release the lock, sleep. -/
def passEnd (s : State) : State :=
  release { s with rxbuf := s.rxbuf.drop s.pos, scanState := .idle, subState := .search }

/-- Step 2 (R173): a byte that is neither SOF value is passed over. -/
def skipByte (s : State) : State := { s with pos := s.pos + 1 }

/-- Whether the handler call for the next packet returns (R63, R251, R276). A call may hang at any packet of a pass.
`PKT_OUT` is not read (R31). -/
def State.handlerReturns (s : State) : Bool := s.handlerLeft != some 0

/-- Step 3 (R174, R175): what the scanner does with the result for the candidate at POS. A handler that does not
return leaves the scanner where it called it, with the lock held (93_implementation_defined.md U8). -/
def settle (r : CreateResult) (s : State) : Turn :=
  match r with
  | .packet p =>
    if s.handlerReturns then .again { emit p s with pos := s.pos + p.frame.buf.length, subState := .search }
    else .hung { emit p s with subState := .inHandler }
  | .needMore _ => .leave s
  | .reject e => .again (rejectHere e s)

/-- One turn of the scan loop (R172, R173 to R175). -/
def scanTurn (s : State) : Except FatalFault Turn :=
  match window s with
  | [] => .ok (.leave s)
  | b :: t =>
    if b ≠ SOF_SMALL ∧ b ≠ SOF_LARGE then .ok (.again (skipByte s))
    else do
      let q ← createPacket s.cfg.crc s.registry (b :: t) s.work
      pure (settle q.2 (freeze { s with work := q.1 }))

/-- The scan loop (R172). POS grows in every turn that goes on and is bounded by the buffer's length, so as many
turns as the buffer has bytes, and one, are always enough. -/
def scanLoop : Nat → State → Except FatalFault State
  | 0, s => .ok s
  | fuel + 1, s => do
    match ← scanTurn s with
    | .again s' => scanLoop fuel s'
    | .leave s' => pure (passEnd s')
    | .hung s' => pure s'

/-- SCAN_PASS (R172), one atomic step (R60). Enabled when `SCAN_STATE = ARMED` (R178); while the lock is held the
armed pass waits for it (R23). -/
def execScanPass (s : State) : Out :=
  unlessFaulted s <|
    if s.scanState ≠ .armed then .refused .notEnabled
    else if s.lock ≠ .free then .next s
    else orRaise s (scanLoop (s.rxbuf.length + 1) (passBegin s)) id

/-- LOOP_TEST (R178): the run flag is observed here and nowhere else; at the loop's end the buffer is cleared and a
waiting STOP returns (R184). -/
def execLoopTest (s : State) : Out :=
  unlessFaulted s <|
    if s.scanState = .idle then
      if s.run then .next { s with scanState := .armed }
      else .next { s with scanState := .stopped, rxbuf := [], joinWait := false }
    else .refused .notEnabled

/-- RX_APPEND (R171): append under the lock; a callback that comes while the lock is held waits (R23, R248). -/
def execRxAppend (chunk : Bytes) (s : State) : Out :=
  unlessFaulted s <|
    if s.lock = .free then .next (append chunk s) else .next (awaitLock chunk s)

/-- START (R183). Without a packet handler it has no meaning and is refused (R183, 92_eei_decisions.md D10). -/
def execStart (s : State) : Out :=
  unlessFaulted s <|
    if s.pktHandler = .unset then .refused .startWithoutHandler
    else if s.scanState ≠ .stopped then .next (returns .alreadyRunning s)
    else .next (returns .ok (freeze { s with rxbuf := [], run := true, scanState := .idle }))

/-- STOP (R184): the request, one atomic step; the application then waits in the join (`held`), which LOOP_TEST lifts. -/
def execStop (s : State) : Out :=
  unlessFaulted s <|
    if s.scanState = .stopped then .next (returns .none s)
    else .next (returns .none { s with run := false, joinWait := true })

/-- SET_PACKET_HANDLER (R185); only while stopped (R277). -/
def execSetPacketHandler (s : State) : Out :=
  unlessFaulted s <|
    if s.scanState = .stopped then .next (returns .none { s with pktHandler := .set })
    else .refused .handlerChangeWhileRunning

/-- SET_ERROR_HANDLER (R186); only while stopped (R277). No rule ever calls the error handler (R244). -/
def execSetErrorHandler (s : State) : Out :=
  unlessFaulted s <|
    if s.scanState = .stopped then .next (returns .none { s with errHandler := .set })
    else .refused .handlerChangeWhileRunning

/-- SEND (R182): fire and forget. -/
def execSend (f : Frame) (s : State) : Out :=
  unlessFaulted s <| .next (returns .none (transmit f.buf s))

end Sys2Proof.Machine
end

