-- ==== Sys2Proof/Machine/Wire.lean ====
section
/-!
DEFINITION. The wire format as instructions (00_scope.md R9): a frame is selected by its SOF byte and then by its
type-identifier byte. Each SOF row is one turn of the scan loop at POS up to the type lookup; each inbound TID row is
the type lookup and what the scanner does with it. They run inside a pass (`SCAN_STATE = IN_PASS`); SCAN_PASS is all
of them in one atomic step.
-/

namespace Sys2Proof.Machine

/-- A wire row is the scanner's next step: a pass is under way and stands at `sub`. -/
def inPassAt (sub : SubState) (s : State) (k : Out) : Out :=
  unlessFaulted s <|
    if s.scanState = .inPass ∧ s.subState = sub then k else .refused .notEnabled

/-- The state a turn of the loop leaves: the pass goes on, ends, or hangs. -/
def turnState : Turn → State
  | .again s => s
  | .leave s => passEnd s
  | .hung s => s

/-- The scanner at a candidate of the SOF value `sof` (R172): CREATE_PACKET is invoked, which freezes the registry
(R142), and its steps 1 to 4 run; a structurally valid frame goes on to its type identifier. -/
def candidate (sof : Byte) (lenb : Nat) (s : State) : Out :=
  let q := examine s.cfg.crc sof lenb (window s) s.work
  let s' := freeze { s with work := q.1 }
  match q.2 with
  | .needMore k => .next (turnState (settle (.needMore k) s'))
  | .reject e => .next (turnState (settle (.reject e) s'))
  | .valid => .next { s' with subState := .typeLookup }

/-- The scanner at the type identifier `tid` of a structurally valid frame (R151, R152, R174, R175). -/
def lookUp (tid : Byte) (s : State) : Out :=
  orRaise s (dispatch s.registry (window s) tid s.work) fun q =>
    turnState (settle q.2 { s with work := q.1 })

/-- FRAME_SMALL: a candidate with one length byte (R81, R145). -/
def execFrameSmall (s : State) : Out := inPassAt .search s <| candidate SOF_SMALL 1 s

/-- FRAME_LARGE: a candidate with two length bytes (R82, R145); a short payload is accepted too (R91). -/
def execFrameLarge (s : State) : Out := inPassAt .search s <| candidate SOF_LARGE 2 s

/-- NON_CANDIDATE: the byte is skipped and CREATE_PACKET is not invoked (R90, R173). -/
def execNonCandidate (s : State) : Out := inPassAt .search s <| .next (skipByte s)

/-- FirmwareVersion: the identifier `TID_FW_VERSION` on receive (R89, R151, R230). -/
def execFirmwareVersion (s : State) : Out := inPassAt .typeLookup s <| lookUp s.cfg.tidFwVersion s

/-- Telemetry: the identifier `TID_GET_VALUES` on receive (R89, R151, R220). -/
def execTelemetry (s : State) : Out := inPassAt .typeLookup s <| lookUp s.cfg.tidGetValues s

/-- UNKNOWN_TYPE: any other identifier on receive. It is looked up like every other (R151): absent from the registry
it is rejected (R92), and a registry that has it dispatches it ("every rule of this file holds for any registry",
R143). -/
def execUnknownType (tid : Byte) (s : State) : Out := inPassAt .typeLookup s <| lookUp tid s

end Sys2Proof.Machine
end

