-- ==== Sys2Proof/Machine/Dispatch.lean ====
section
/-!
DEFINITION. One arm per instruction.
-/

namespace Sys2Proof.Machine

def exec (i : Instr) (s : State) : Host.Outcome State Fault Refusal :=
  match i with
  -- SOF rows
  | .frameSmall => Sys2Proof.Machine.execFrameSmall s
  | .frameLarge => Sys2Proof.Machine.execFrameLarge s
  | .nonCandidate _ => Sys2Proof.Machine.execNonCandidate s
  -- TID rows
  | .requestFirmwareVersion => Sys2Proof.Machine.execRequestFirmwareVersion s
  | .firmwareVersion => Sys2Proof.Machine.execFirmwareVersion s
  | .requestTelemetry => Sys2Proof.Machine.execRequestTelemetry s
  | .telemetry => Sys2Proof.Machine.execTelemetry s
  | .setDutyCycle field => Sys2Proof.Machine.execSetDutyCycle field s
  | .setCurrent field => Sys2Proof.Machine.execSetCurrent field s
  | .setCurrentBrake field => Sys2Proof.Machine.execSetCurrentBrake field s
  | .setRPM field => Sys2Proof.Machine.execSetRPM field s
  | .setPosition field => Sys2Proof.Machine.execSetPosition field s
  | .setServoPosition field => Sys2Proof.Machine.execSetServoPosition field s
  | .unknownType tid => Sys2Proof.Machine.execUnknownType tid s
  -- OP rows
  | .registerType tid ctor => Sys2Proof.Machine.execRegisterType tid ctor s
  | .setPacketHandler => Sys2Proof.Machine.execSetPacketHandler s
  | .setErrorHandler => Sys2Proof.Machine.execSetErrorHandler s
  | .start => Sys2Proof.Machine.execStart s
  | .stop => Sys2Proof.Machine.execStop s
  | .rxAppend chunk => Sys2Proof.Machine.execRxAppend chunk s
  | .scanPass => Sys2Proof.Machine.execScanPass s
  | .createPacket w => Sys2Proof.Machine.execCreatePacket w s
  | .crc16 bytes => Sys2Proof.Machine.execCrc16 bytes s
  | .buildFrame n => Sys2Proof.Machine.execBuildFrame n s
  | .sealFrame f => Sys2Proof.Machine.execSealFrame f s
  | .extractFrame raw off n => Sys2Proof.Machine.execExtractFrame raw off n s
  | .send f => Sys2Proof.Machine.execSend f s
  | .loopTest => Sys2Proof.Machine.execLoopTest s
  | .encRequestFwVersion => Sys2Proof.Machine.execEncRequestFwVersion s
  | .encRequestTelemetry => Sys2Proof.Machine.execEncRequestTelemetry s
  | .encSetDutyCycle x => Sys2Proof.Machine.execEncSetDutyCycle x s
  | .encSetCurrent x => Sys2Proof.Machine.execEncSetCurrent x s
  | .encSetCurrentBrake x => Sys2Proof.Machine.execEncSetCurrentBrake x s
  | .encSetRpm x => Sys2Proof.Machine.execEncSetRpm x s
  | .encSetPosition x => Sys2Proof.Machine.execEncSetPosition x s
  | .encSetServoPosition x => Sys2Proof.Machine.execEncSetServoPosition x s
  | .decTelemetry call f => Sys2Proof.Machine.execDecTelemetry call f s
  | .decFwVersion call f => Sys2Proof.Machine.execDecFwVersion call f s

end Sys2Proof.Machine
end

