-- ==== Sys2Proof/Machine/Fetch.lean ====
section
/-!
DEFINITION. Where the next instruction comes from. While a pass is under way it is on the wire: the SOF row of the
byte at POS, or the inbound TID row of the candidate's payload byte 0. Otherwise it is the next pending call or
callback that does not wait. With none the polling thread goes on by itself (log entries 1, 9, 10, 13).
-/

namespace Sys2Proof.Machine

/-- The scanner is inside a pass and its handler, if called, has returned. -/
def scanning (s : State) : Bool := (s.scanState == .inPass) && (s.subState != .inHandler)

/-- The instruction a pending record holds. -/
def decodeSlot (c : Config) (q : Slot) : Except DecodeError Instr :=
  match decode c (if q.command then .tidOut else .op) q.bytes with
  | .ok (i, _) => .ok i
  | .error e => .error e

/-- While the application stands in a STOP's join (R184, R273), its calls that act on the block wait; what may run on any
thread does not, a packet handler's calls among it (R201, R251; log entry 13). -/
def held (s : State) (q : Slot) : Bool :=
  match decodeSlot s.cfg q with
  | .ok i => s.joinWait && i.waitsForJoin
  | .error _ => false

/-- The first pending record that does not wait, and the records without it; those that wait keep their order. -/
def nextRecord (s : State) : List Slot → Option (Slot × List Slot)
  | [] => none
  | q :: rest =>
    if held s q then
      match nextRecord s rest with
      | some (p, others) => some (p, q :: others)
      | none => none
    else some (q, rest)

/-- The instruction on the wire at the scanner's place: at a candidate search the byte at POS, at a type lookup the
first payload byte (R97). -/
def fetchWire (s : State) : Except DecodeError Instr :=
  match s.subState with
  | .typeLookup =>
    match decode s.cfg .tidIn (s.rxbuf.drop (s.pos + s.work.hdr)) with
    | .ok (i, _) => .ok i
    | .error e => .error e
  | _ =>
    match decode s.cfg .sof (window s) with
    | .ok (i, _) => .ok i
    | .error e => .error e

/-- The scanner's next move inside a pass: at the buffer's end the pass ends (R172), otherwise the instruction on the
wire runs. -/
def scanMove (s : State) : Out :=
  if s.subState = .search ∧ s.rxbuf.length ≤ s.pos then .next (passEnd s)
  else
    match fetchWire s with
    | .ok i => exec i s
    | .error _ => .next (raise (.accessRange .rxbuf (s.pos + s.work.hdr) 1) s)

/-- With nothing pending that can run, the polling thread goes on (R177, R178, R248): the sleep ends in LOOP_TEST, an armed
pass takes the lock when it is free. A stopped scanner, and one whose handler has not returned, has no step: the machine
waits. -/
def pollMove (s : State) : Out :=
  match s.scanState with
  | .idle => execLoopTest s
  | .armed => if s.lock = .free then .next (passBegin s) else .next s
  | .inPass => .next s
  | .stopped => .next s

/-- One step of a machine that has not aborted. -/
def liveStep (s : State) : Out :=
  if scanning s then scanMove s
  else
    match nextRecord s s.pending with
    | some (q, rest) =>
      match decodeSlot s.cfg q with
      | .ok i => exec i { s with pending := rest }
      | .error e => .refused (.undecodable e)
    | none => pollMove s

/-- `s` with a record placed where the next step fetches: first among the pending ones. A pass under way would fetch
from the wire, so it is taken back to the sleep with its lock released; a join that would hold the record back is lifted. -/
def placeFirst (q : Slot) (s : State) : State :=
  if scanning s then
    { s with
      pending := q :: s.pending, scanState := .idle, lock := .free, subState := .search,
      joinWait := s.joinWait && !held s q }
  else { s with pending := q :: s.pending, joinWait := s.joinWait && !held s q }

/-- `s` inside a pass whose next candidate search reads `b`. -/
def placeOnWire (b : Bytes) (s : State) : State :=
  { s with scanState := .inPass, lock := .heldScan, subState := .search, rxbuf := b, pos := 0 }

/-- `s` with the instruction of a table word (`decodeTableWord`) where the next step fetches: an operation or a command
is the next pending record, a window byte stands on the wire (log entry 1). -/
def placeWord (nbits w : Nat) (s : State) : State :=
  match wordFormat nbits w with
  | .op => placeFirst { command := false, bytes := wordBytes nbits w } s
  | .tidOut => placeFirst { command := true, bytes := wordBytes nbits w } s
  | .sof => placeOnWire (wordBytes nbits w) s
  | .tidIn => placeOnWire (wordBytes nbits w) s

end Sys2Proof.Machine
end

