-- ==== Sys2Proof/Machine/Step.lean ====
section
/-!
DEFINITION. One step of the machine.
-/

namespace Sys2Proof.Machine

/-- One step: in a state with `FAULTED ≠ NONE` no agent has a step (R35, R247). -/
def step (s : State) : Host.Outcome State Fault Refusal := unlessFaulted s (liveStep s)

/-- `s` with the instruction of a table word where `step` fetches next. -/
def State.withFetchWord (s : State) (nbits w : Nat) : State := placeWord nbits w s

end Sys2Proof.Machine
end

