-- ==== Sys2Proof/Safety.lean ====
section
/-!
DEFINITION. The terms claims are stated in: a live state, what may be observed, reference functions written from the
rules without the machine's registers, and the machine's invariant.
-/

namespace Sys2Proof.Machine

/-! ### Runs and observations -/

/-- A state a claim may call successful: `FAULTED = NONE` (R35). -/
abbrev State.live (s : State) : Prop := s.faulted = none

/-- What a claim about the block may speak of (R13). -/
structure Observation where
  pktOut  : List Packet
  txOut   : List Bytes
  rxbuf   : Bytes
  faulted : Option FatalFault
  deriving DecidableEq, Repr

/-- The observation of a state (R13). -/
def observe (s : State) : Observation :=
  { pktOut := s.pktOut, txOut := s.txOut, rxbuf := s.rxbuf, faulted := s.faulted }

/-- An outcome with its next state seen through `g`. -/
def mapNext (g : State → State) : Out → Out
  | .next s => .next (g s)
  | .fault f => .fault f
  | .refused r => .refused r

/-- A state without the registers that have no value between operations (R24, R27, R28). -/
def forgetTransients (s : State) : State := { s with pos := 0, work := WorkRegs.reset }

/-- A state without what no rule reads: the error handler (R34), the poll interval (R36), the output traces (R31, R32) and
the ghost log (R33). -/
def forgetUnread (s : State) : State :=
  { s with errHandler := .unset, pollInterval := 0, pktOut := [], txOut := [], rejLog := [] }

/-! ### CREATE_PACKET as a function of the window alone (R144, in the order of R249) -/

/-- The header size a SOF value stands for (R145). -/
def headerSize (w : Bytes) : Nat := if byteAt w 0 = SOF_SMALL then HDR_SMALL else HDR_LARGE

/-- The declared payload length (R84). -/
def declaredLength (w : Bytes) : Nat :=
  if byteAt w 0 = SOF_SMALL then (byteAt w 1).toNat else 256 * (byteAt w 1).toNat + (byteAt w 2).toNat

/-- The total frame length (R88). -/
def totalLength (w : Bytes) : Nat := headerSize w + declaredLength w + TRAILER_BYTES

/-- The payload the window declares. -/
def declaredPayload (w : Bytes) : Bytes := slice w (headerSize w) (declaredLength w)

/-- The one result of a non-empty window: the first case of R249 that holds. -/
def classify (c : CrcParams) (reg : Registry) (w : Bytes) : CreateResult :=
  if byteAt w 0 ≠ SOF_SMALL ∧ byteAt w 0 ≠ SOF_LARGE then .reject .badSof
  else if w.length < headerSize w then .needMore (headerSize w - w.length)
  else if MAX_PAYLOAD < declaredLength w then .reject .lenTooLarge
  else if declaredLength w = 0 then .reject .lenZero
  else if w.length < totalLength w then .needMore (totalLength w - w.length)
  else if byteAt w (totalLength w - 1) ≠ EOF_VAL then .reject .badEof
  else if beNat (slice w (headerSize w + declaredLength w) CRC_BYTES) ≠ (crc16 c (declaredPayload w)).toNat then
    .reject .badCrc
  else
    match Registry.find reg (byteAt w (headerSize w)) with
    | none => .reject .unknownType
    | some k =>
      .packet { frame := { buf := w.take (totalLength w), payOff := headerSize w, payLen := declaredLength w },
                kind := k }

/-! ### A scan pass as a function of the buffer alone (`SCAN(b)` of R179) -/

/-- What a pass over a buffer gives: the packets, the reject reasons, the bytes left. -/
structure ScanResult where
  packets : List Packet
  rejects : List RejectReason
  rest    : Bytes
  deriving DecidableEq, Repr

/-- `SCAN(b)` (R179), by fuel; as many turns as `b` has bytes, and one, are enough. -/
def scanRef (c : CrcParams) (reg : Registry) : Nat → Bytes → ScanResult
  | 0, b => ⟨[], [], b⟩
  | _ + 1, [] => ⟨[], [], []⟩
  | fuel + 1, x :: t =>
    if x ≠ SOF_SMALL ∧ x ≠ SOF_LARGE then scanRef c reg fuel t
    else
      match classify c reg (x :: t) with
      | .needMore _ => ⟨[], [], x :: t⟩
      | .reject e =>
        let r := scanRef c reg fuel t
        { r with rejects := e :: r.rejects }
      | .packet p =>
        let r := scanRef c reg fuel ((x :: t).drop p.frame.buf.length)
        { r with packets := p :: r.packets }

/-- `SCAN(b)` (R179). -/
def scan (c : CrcParams) (reg : Registry) (b : Bytes) : ScanResult := scanRef c reg (b.length + 1) b

/-! ### The CRC by a table (R113) -/

/-- The table entry of a byte: its eight steps from the high byte of a zero register. -/
def crcTable (poly : Half) (b : Byte) : Half := crcBits poly 8 (b.setWidth 16 <<< 8)

/-- The byte loop with one table look-up per byte. -/
def crcTableFold (c : CrcParams) (acc : Half) (s : Bytes) : Half :=
  s.foldl
    (fun a b => (a <<< 8) ^^^ crcTable c.poly (a.extractLsb' 8 8 ^^^ (if c.refin then b.reverse else b))) acc

/-! ### Numbers of a binary type (R203) -/

/-- The values of a binary type before its upper bound: a signed significand of one bit more than the fraction has, times a
power of two that is at least the last place of the subnormal numbers (log entry 17). -/
def BinaryValue (fracBits emax : Nat) (v : Rat) : Prop :=
  ∃ m k : Int, |m| < 2 ^ (fracBits + 1) ∧ 1 - (emax : Int) - fracBits ≤ k ∧ v = m * (2 : Rat) ^ k

/-! ### Start-up (R272) -/

/-- Step 1 of the start-up sequence: register every entry, stopping where a step is no next state. -/
def registerAll : List (Byte × Kind) → State → Out
  | [], s => .next s
  | e :: rest, s =>
    match exec (.registerType e.1 e.2) s with
    | .next t => registerAll rest t
    | .fault f => .fault f
    | .refused r => .refused r

/-! ### Receiving -/

/-- Receive callbacks one after another. -/
def receiveAll : List Bytes → State → Out
  | [], s => .next s
  | c :: rest, s =>
    match exec (.rxAppend c) s with
    | .next t => receiveAll rest t
    | .fault f => .fault f
    | .refused r => .refused r

/-! ### The invariant -/

/-- The candidate at `pos` has passed steps 1 to 4 of CREATE_PACKET: the transient registers `r` describe a frame that
lies wholly in a buffer of `len` bytes (R27, R148). -/
structure CandidateReady (r : WorkRegs) (pos len : Nat) : Prop where
  hdr   : r.hdr = HDR_SMALL ∨ r.hdr = HDR_LARGE
  some  : 1 ≤ r.n.toNat
  bound : r.n.toNat ≤ MAX_PAYLOAD
  total : r.total = r.hdr + r.n.toNat + TRAILER_BYTES
  fits  : pos + r.total ≤ len

/-- Every packet carries a frame laid out as R40 says, with a payload (R128). -/
def TraceLaidOut (l : List Packet) : Prop := ∀ p ∈ l, p.frame.laidOut ∧ 1 ≤ p.frame.payLen

/-- What holds at reset and after every step. -/
structure Inv (s : State) : Prop where
  /-- each identifier has at most one registry entry, in one canonical order (R30) -/
  registrySorted : Registry.wf s.registry
  /-- the loop is stopped only with the run flag clear (R25) -/
  stoppedNotRunning : s.scanState = .stopped → s.run = false
  /-- a running loop was started with a handler and a frozen registry (R183) -/
  startedReady : s.scanState ≠ .stopped → s.pktHandler = .set ∧ s.regFrozen = true
  /-- the scanner holds the lock exactly inside a pass (R25) -/
  lockInPass : s.lock = .heldScan ↔ s.scanState = .inPass
  /-- an append is never seen half done (R60) -/
  appendAtomic : s.lock ≠ .heldRx
  /-- a STOP waits only while the loop has not ended and its request stands (R184) -/
  joinPending : s.joinWait = true → s.scanState ≠ .stopped ∧ s.run = false
  /-- a receive callback waits only for a pass (R248) -/
  waitForPass : s.rxWait ≠ [] → s.lock = .heldScan
  /-- POS never exceeds the buffer's length (R24) -/
  posInBuffer : s.scanState = .inPass → s.pos ≤ s.rxbuf.length
  /-- the finer places exist only inside a pass (R25) -/
  searchOutside : s.scanState ≠ .inPass → s.subState = .search
  /-- the scanner is stuck only in a handler call that does not return, that of the last packet (R251) -/
  stuckInHandler : s.subState = .inHandler → s.handlerLeft = some 0 ∧ s.pktOut ≠ []
  /-- the type lookup is reached only by a structurally valid candidate (R151) -/
  lookupReady : s.subState = .typeLookup → CandidateReady s.work s.pos s.rxbuf.length
  /-- every packet the application has been given carries a frame laid out as R40 says, with a payload (R128) -/
  packetsLaidOut : TraceLaidOut s.pktOut

end Sys2Proof.Machine
end

