-- ==== Sys2Proof/Certificates/Slice0/Obligations.lean ====
section
/-!
DEFINITION. The statements for the provers. "s.live" says that `FAULTED = NONE`. An equation
`exec i s = .next { s with … }` is a completion, a result and a frame in one: every field it does not name, and so
every byte of the receive buffer, is unchanged.
-/

open Sys2Proof Sys2Proof.Machine

/-! ### Encoding and decoding -/

/-- Decode and encode agree for every well-formed instruction of every format, whatever follows it (R97; the spelling of
an operation's arguments is the model's, log entry 2). -/
def Obligations.DecodeOfEncodeIsTheInstruction : Prop :=
  ∀ (c : Config) (i : Instr) (t : Bytes), c.wf → i.wf c →
    Sys2Proof.decode c i.format (Sys2Proof.encode c i ++ t) = .ok (i, t)

/-- A few words written out from the spec's encodings (R81, R82, R89, R96, R204) decode to what they stand for. -/
def Obligations.WrittenWordsDecode : Prop :=
  Sys2Proof.decode defaultConfig .sof [0x02, 0x01, 0x04, 0x40, 0x84, 0x03] =
      .ok (.frameSmall, [0x01, 0x04, 0x40, 0x84, 0x03]) ∧
    Sys2Proof.decode defaultConfig .sof [0x03, 0x04, 0x01] = .ok (.frameLarge, [0x04, 0x01]) ∧
    Sys2Proof.decode defaultConfig .tidIn [0x00] = .ok (.firmwareVersion, []) ∧
    Sys2Proof.decode defaultConfig .tidOut [0x05, 0x00, 0x00, 0x30, 0x39] = .ok (.setDutyCycle 12345, []) ∧
    Sys2Proof.decode defaultConfig .tidOut [0x0C, 0x01, 0xF4] = .ok (.setServoPosition 500, []) ∧
    Sys2Proof.decode defaultConfig .op [0x0E] = .ok (.loopTest, [])

/-- Operation numbers outside R96's list are no operations: the set is closed (R95). -/
def Obligations.UnlistedOperationNumbersAreRefused : Prop :=
  ∀ (b : Byte) (t : Bytes),
    b ∉ ([0x01, 0x02, 0x03, 0x04, 0x05, 0x06, 0x07, 0x08, 0x09, 0x0A, 0x0B, 0x0C, 0x0D, 0x0E, 0x10, 0x11, 0x12, 0x13,
        0x14, 0x15, 0x16, 0x17, 0x18, 0x19] : List Byte) →
      decodeOp (b :: t) = .error (.unknownOp b)

/-! ### The step -/

/-- When the next pending record decodes to an instruction and neither a pass nor a STOP's join is under way, the step is
that instruction, with the record taken off the pending ones. The record's place is the model's (log entries 1, 2). -/
def Obligations.StepRunsThePendingInstruction : Prop :=
  ∀ (s : State) (q : Slot) (rest : List Slot) (i : Instr) (u : Bytes), s.live → scanning s = false →
    s.joinWait = false → s.pending = q :: rest →
    Sys2Proof.decode s.cfg (if q.command then .tidOut else .op) q.bytes = .ok (i, u) →
    step s = exec i { s with pending := rest }

/-- While a STOP waits in its join, START, STOP, REGISTER_TYPE, the handler setters and CREATE_PACKET wait with it, in their
order. The first record of any other instruction runs: callbacks, and what may run on any thread, encoders, accessors, SEND
and CRC16, whoever calls it (R62, R184, R201, R231, R273). Where there is no such record the polling thread moves, whose
LOOP_TEST ends the join, or stands in a handler that has not returned. Which calls wait is the model's (log entry 13), and
so is the order of moves (log entry 10). -/
def Obligations.AStopHoldsTheApplicationsCalls : Prop :=
  ∀ (s : State) (a rest : List Slot) (q : Slot) (i : Instr) (u : Bytes), s.live → scanning s = false →
    s.joinWait = true →
    let waits (j : Instr) : Prop := (∃ tid k, j = .registerType tid k) ∨ j = .setPacketHandler ∨ j = .setErrorHandler ∨
      j = .start ∨ j = .stop ∨ ∃ w, j = .createPacket w
    (∀ x ∈ a, ∃ j v, Sys2Proof.decode s.cfg (if x.command then .tidOut else .op) x.bytes = .ok (j, v) ∧ waits j) →
    (Sys2Proof.decode s.cfg (if q.command then .tidOut else .op) q.bytes = .ok (i, u) → ¬ waits i →
      s.pending = a ++ q :: rest → step s = exec i { s with pending := a ++ rest }) ∧
    (s.pending = a → s.scanState = .idle → step s = exec .loopTest s) ∧
    (s.pending = a → s.scanState = .armed → s.lock = .free →
      step s = .next { s with lock := .heldScan, pos := 0, scanState := .inPass, subState := .search }) ∧
    (s.pending = a → s.scanState = .inPass → step s = .next s)

/-- Inside a pass the step is the instruction on the wire: the SOF row of the byte at POS at a search, the inbound
TID row of the candidate's first payload byte at a type lookup (log entry 9). -/
def Obligations.StepRunsTheInstructionOnTheWire : Prop :=
  ∀ (s : State) (i : Instr) (u : Bytes), s.live → s.scanState = .inPass →
    (s.subState = .search → s.pos < s.rxbuf.length →
      Sys2Proof.decode s.cfg .sof (s.rxbuf.drop s.pos) = .ok (i, u) → step s = exec i s) ∧
    (s.subState = .typeLookup →
      Sys2Proof.decode s.cfg .tidIn (s.rxbuf.drop (s.pos + s.work.hdr)) = .ok (i, u) → step s = exec i s)

/-- With nothing pending the polling thread moves (log entry 10): its sleep ends in LOOP_TEST; an armed pass begins and is
then seen under way, where R25 has an atomic pass never visible (log entry 9); a stopped scanner leaves the machine as it
is (log entry 11). -/
def Obligations.StepPollsWhenNothingIsPending : Prop :=
  ∀ s : State, s.live → s.pending = [] →
    (s.scanState = .idle → step s = exec .loopTest s) ∧
    (s.scanState = .armed → s.lock = .free →
      step s = .next { s with lock := .heldScan, pos := 0, scanState := .inPass, subState := .search }) ∧
    (s.scanState = .stopped → step s = .next s)

/-- After a fatal fault no operation of any agent has a step, and neither has the machine (R35, R247). -/
def Obligations.NothingRunsAfterAFatalFault : Prop :=
  ∀ (s : State) (f : FatalFault) (i : Instr), s.faulted = some f →
    exec i s = .fault (.aborted f) ∧ step s = .fault (.aborted f)

/-! ### Reset and the invariant -/

/-- The values the spec gives for reset (R39, R271). The poll interval is 10 ms in the model's microseconds. -/
def Obligations.ResetHoldsTheSpecsValues : Prop :=
  State.reset.rxbuf = [] ∧ State.reset.lock = .free ∧ State.reset.scanState = .stopped ∧ State.reset.run = false ∧
    (∀ tid, Registry.find State.reset.registry tid = none) ∧ State.reset.regFrozen = false ∧
    State.reset.pktHandler = .unset ∧ State.reset.errHandler = .unset ∧ State.reset.pollInterval = 10 * 1000 ∧
    State.reset.live ∧ State.reset.pktOut = [] ∧ State.reset.txOut = [] ∧ State.reset.rejLog = []

/-- The invariant holds at reset. -/
def Obligations.ResetMeetsTheInvariant : Prop := Inv State.reset

/-- Every step keeps the invariant, from every state that has it. -/
def Obligations.EveryStepKeepsTheInvariant : Prop :=
  ∀ s t : State, Inv s → step s = .next t → Inv t

/-- No step changes a parameter, and the traces only grow (R11, R31, R32, R33). That none changes the poll interval, and that
the handler's coming calls are used up by the packets alone, one by each, is the model's choice (log entries 22 and 18). -/
def Obligations.ParametersStayAndTracesGrow : Prop :=
  ∀ s t : State, step s = .next t →
    t.cfg = s.cfg ∧ t.pollInterval = s.pollInterval ∧
      (∃ l, t.pktOut = s.pktOut ++ l ∧ t.handlerLeft = s.handlerLeft.map (· - l.length)) ∧
      s.txOut <+: t.txOut ∧ s.rejLog <+: t.rejLog

/-- The freeze is never undone and a frozen registry never changes (R142). -/
def Obligations.FrozenRegistryNeverChanges : Prop :=
  ∀ s t : State, s.regFrozen = true → step s = .next t → t.regFrozen = true ∧ t.registry = s.registry

/-! ### The registry (R141 to R143, R272) -/

/-- REGISTER_TYPE before the freeze writes the entry of an identifier without one and no other entry; of a present
identifier it is the fatal fault DUPLICATE_TYPE, whichever constructor it names; after the freeze it is REGISTRY_FROZEN
whether or not the identifier is present. Nothing else changes (R141; the caller's result register is the model's, log
entry 14). -/
def Obligations.RegisterTypeWritesItsEntryOrFaults : Prop :=
  ∀ (s : State) (tid : Byte) (k : Kind), s.live →
    (s.regFrozen = false → Registry.find s.registry tid = none →
      ∃ r : Registry, exec (.registerType tid k) s = .next { s with registry := r, result := .none } ∧
        ∀ x, Registry.find r x = if x = tid then some k else Registry.find s.registry x) ∧
    (s.regFrozen = false → (Registry.find s.registry tid).isSome →
      exec (.registerType tid k) s = .next { s with faulted := some (.duplicateType tid) }) ∧
    (s.regFrozen = true →
      exec (.registerType tid k) s = .next { s with faulted := some (.registryFrozen tid) })

/-- Step 1 of the start-up sequence completes for every initial registry that is a map, and leaves exactly it. -/
def Obligations.StartupRegistersTheInitialRegistry : Prop :=
  ∀ s : State, s.live → s.cfg.wf → s.regFrozen = false → s.registry = [] →
    ∃ t, registerAll s.cfg.registryInit s = .next t ∧ t.live ∧
      ∀ x k, Registry.find t.registry x = some k ↔ (x, k) ∈ s.cfg.registryInit

/-! ### The CRC engine (R111 to R116) -/

/-- CRC16 as an operation: the value goes to the caller and nothing but the transient accumulator changes. -/
def Obligations.Crc16ReturnsTheChecksum : Prop :=
  ∀ (s : State) (b : Bytes), s.live →
    ∃ acc : Half, exec (.crc16 b) s =
      .next { s with result := .crc (crc16 s.cfg.crc b), work := { s.work with crcAcc := acc } }

/-- The checksum is a fold: the accumulator after `u ++ v` is the byte loop over `v` from the one `u` leaves (R113),
and the checksum of no bytes is the initial value, reflected if so configured, with the final exclusive or (R111). -/
def Obligations.ChecksumIsAFold : Prop :=
  ∀ (c : CrcParams) (acc : Half) (u v : Bytes),
    crcFold c acc (u ++ v) = crcFold c (crcFold c acc u) v ∧
      Machine.crc16 c [] = (if c.refout then c.init.reverse else c.init) ^^^ c.xorout

/-- A table-driven realisation returns the same value for every input and every parameter set (R113). -/
def Obligations.TableDrivenChecksumAgrees : Prop :=
  ∀ (c : CrcParams) (acc : Half) (b : Bytes), crcTableFold c acc b = crcFold c acc b

/-- Flipping one bit of a payload changes its checksum, for every parameter set with a nonzero polynomial (R115). -/
def Obligations.OneFlippedBitChangesTheChecksum : Prop :=
  ∀ (c : CrcParams) (u v : Bytes) (b : Byte) (k : Nat), c.poly ≠ 0 → k < 8 →
    Machine.crc16 c (u ++ (b ^^^ (1#8 <<< k)) :: v) ≠ Machine.crc16 c (u ++ b :: v)

/-- The customary check value of R112, under the default parameters (PRESUMED, log entry 4). -/
def Obligations.DefaultChecksumHasTheCheckValue : Prop :=
  ∀ s : State, s.live → s.cfg.crc = defaultCrc →
    ∃ t, exec (.crc16 [0x31, 0x32, 0x33, 0x34, 0x35, 0x36, 0x37, 0x38, 0x39]) s = .next t ∧ t.result = .crc 0x31C3

/-! ### The frame codec (R121 to R129) -/

/-- BUILD_FRAME of a size in 0..1024 completes: header, length, EOF and the payload's place are as the format says, and
it changes no other state (the draw counter and the caller's result are the model's, log entries 14 and 15; the bytes in
between are free). Of any other size it is the fatal fault PAYLOAD_SIZE, before anything is built (R121). -/
def Obligations.BuildFrameLaysOutTheFrameOrFaults : Prop :=
  ∀ (s : State) (n : Int), s.live →
    (0 ≤ n → n ≤ 1024 →
      ∃ f : Frame, exec (.buildFrame n) s = .next { s with result := .frame f, freeCount := s.freeCount + 1 } ∧
        f.payLen = n.toNat ∧ f.payOff = (if n ≤ 255 then 2 else 3) ∧ f.buf.length = f.payOff + n.toNat + 3 ∧
        f.buf.take f.payOff =
          (if n ≤ 255 then [0x02, BitVec.ofInt 8 n]
            else [0x03, BitVec.ofNat 8 (n.toNat >>> 8), BitVec.ofNat 8 (n.toNat &&& 0xFF)]) ∧
        f.buf.drop (f.payOff + n.toNat + 2) = [0x03]) ∧
    ((n < 0 ∨ 1024 < n) →
      exec (.buildFrame n) s = .next { s with faulted := some (.payloadSize n) })

/-- SEAL_FRAME writes the payload's checksum into the two bytes after the payload, high byte first, and changes no
other byte and no other state. -/
def Obligations.SealFrameWritesTheChecksum : Prop :=
  ∀ (s : State) (h p t : Bytes) (x y : Byte), s.live →
    let v := (Machine.crc16 s.cfg.crc p).toNat
    let sealed : Bytes := h ++ p ++ [BitVec.ofNat 8 (v >>> 8), BitVec.ofNat 8 (v &&& 0xFF)] ++ t
    exec (.sealFrame ⟨h ++ p ++ [x, y] ++ t, h.length, p.length⟩) s =
      .next { s with result := .frame ⟨sealed, h.length, p.length⟩ }

/-- EXTRACT_FRAME completes exactly on the ranges R127 admits, with the bytes as they are, and is the fatal fault
FRAME_RANGE on every other. -/
def Obligations.ExtractFrameChecksItsRange : Prop :=
  ∀ (s : State) (raw : Bytes) (off n : Nat), s.live →
    (5 ≤ raw.length ∧ raw.length ≤ 1030 ∧ 1 ≤ off ∧ off + n + 1 ≤ raw.length →
      exec (.extractFrame raw off n) s =
        .next { s with result := .frame ⟨raw, off, n⟩ }) ∧
    (¬ (5 ≤ raw.length ∧ raw.length ≤ 1030 ∧ 1 ≤ off ∧ off + n + 1 ≤ raw.length) →
      exec (.extractFrame raw off n) s = .next { s with faulted := some (.frameRange raw.length off n) })

/-- `FRAME(P)` followed by anything is created as the packet of `P`'s identifier, with exactly the frame's bytes and
the payload `P`; with no registry entry it is rejected (R129). -/
def Obligations.BuiltFramesAreReceived : Prop :=
  ∀ (s : State) (p t : Bytes) (tid : Byte), s.live → p.head? = some tid → p.length ≤ MAX_PAYLOAD →
    ∃ w : WorkRegs, exec (.createPacket (frameOf s.cfg.crc p ++ t)) s = .next { s with
      regFrozen := true
      work := w
      result := .created (match Registry.find s.registry tid with
        | none => .reject .unknownType
        | some k => .packet ⟨⟨frameOf s.cfg.crc p, if p.length ≤ 255 then 2 else 3, p.length⟩, k⟩) }

/-- One flipped bit in the payload or in the CRC bytes of a frame makes CREATE_PACKET reject it with BAD_CRC, for every
parameter set with a nonzero polynomial, while the unmodified frame of a registered type is accepted (R115). -/
def Obligations.OneFlippedBitIsRejected : Prop :=
  ∀ (s : State) (p : Bytes) (tid : Byte) (kind : Kind), s.live → s.cfg.crc.poly ≠ 0 → p.head? = some tid →
    p.length ≤ MAX_PAYLOAD → Registry.find s.registry tid = some kind →
    (∃ t q, exec (.createPacket (frameOf s.cfg.crc p)) s = .next t ∧ t.result = .created (.packet q) ∧ q.kind = kind) ∧
    ∀ j k : Nat, j < p.length + 2 → k < 8 →
      ∃ t, exec (.createPacket ((frameOf s.cfg.crc p).modify ((if p.length ≤ 255 then 2 else 3) + j)
          (fun b => b ^^^ (1#8 <<< k)))) s = .next t ∧
        t.result = .created (.reject .badCrc)

/-! ### CREATE_PACKET (R144 to R156) -/

/-- CREATE_PACKET on a non-empty window completes with the result of the first case that holds in R249's order, and
changes only the freeze and the transient registers; on the empty window it is the fatal fault EMPTY_WINDOW. -/
def Obligations.CreatePacketDecidesInPriorityOrder : Prop :=
  ∀ (s : State) (w : Bytes), s.live →
    (w = [] → exec (.createPacket w) s = .next { s with faulted := some .emptyWindow }) ∧
    (w ≠ [] → ∃ r : WorkRegs, exec (.createPacket w) s =
      .next { s with regFrozen := true, work := r, result := .created (classify s.cfg.crc s.registry w) })

/-- A decided candidate stays decided whatever follows; a shortfall is at least one byte, shrinks by the bytes that
arrive while the frame is still short, and is impossible from 1030 bytes on (R154, R156). -/
def Obligations.DecidedCandidatesStayDecided : Prop :=
  ∀ (c : CrcParams) (reg : Registry) (w t : Bytes), w ≠ [] →
    ((∀ k, classify c reg w ≠ .needMore k) → classify c reg (w ++ t) = classify c reg w) ∧
    (∀ k, classify c reg w = .needMore k → 1 ≤ k ∧ w.length < MAX_FRAME_SIZE ∧
      (t.length < k → classify c reg (w ++ t) = .needMore (k - t.length)))

/-! ### Receiving and scanning (R171 to R187) -/

/-- RX_APPEND appends its chunk when the lock is free, whether or not the scanner runs; while the lock is held the
callback waits with its chunk and the buffer is unchanged (R171, R248; the waiting list is the model's, log entry 12). -/
def Obligations.RxAppendAppendsOrWaits : Prop :=
  ∀ (s : State) (chunk : Bytes), s.live →
    (s.lock = .free → exec (.rxAppend chunk) s = .next { s with rxbuf := s.rxbuf ++ chunk }) ∧
    (s.lock ≠ .free → exec (.rxAppend chunk) s = .next { s with rxWait := s.rxWait ++ [chunk] })

/-- LOOP_TEST observes the run flag at the top of the loop: set, it arms a pass; clear, it ends the loop, clears the
buffer and lifts a waiting STOP (R178, R184). -/
def Obligations.LoopTestObservesTheRunFlag : Prop :=
  ∀ s : State, s.live → s.scanState = .idle →
    (s.run = true → exec .loopTest s = .next { s with scanState := .armed }) ∧
    (s.run = false → exec .loopTest s = .next { s with scanState := .stopped, rxbuf := [], joinWait := false })

/-- An armed pass over a free buffer always completes and raises nothing. Where every handler call of the pass returns, it
emits and rejects exactly what the reference scan does, keeps exactly what it leaves (and then the chunks that waited for
the lock), and returns to the sleep with the lock free. Where the call for one of its packets does not return, the packets
up to that one have been emitted, each once, and the scanner stays in the pass with the lock held and the buffer as it was
(R172 to R177, R251; which call hangs, and that each call uses up one that was to come, is log entry 18's). Nothing else
changes but the transient registers; REG_FROZEN is already 1 in a running loop (R172), which is a premise here. -/
def Obligations.ScanPassIsTheReferenceScan : Prop :=
  ∀ s : State, s.live → s.scanState = .armed → s.lock = .free → s.regFrozen = true →
    let r := scan s.cfg.crc s.registry s.rxbuf
    ((∀ n, s.handlerLeft = some n → r.packets.length ≤ n) →
      ∃ (w : WorkRegs) (p : Nat), exec .scanPass s = .next { s with
        pktOut := s.pktOut ++ r.packets
        handlerLeft := s.handlerLeft.map (· - r.packets.length)
        rejLog := s.rejLog ++ r.rejects
        rxbuf := r.rest ++ s.rxWait.flatten
        rxWait := []
        scanState := .idle
        subState := .search
        lock := .free
        work := w
        pos := p }) ∧
    (∀ n, s.handlerLeft = some n → n < r.packets.length →
      ∃ (w : WorkRegs) (p : Nat) (l : List RejectReason), l <+: r.rejects ∧ p ≤ s.rxbuf.length ∧
        exec .scanPass s = .next { s with
          pktOut := s.pktOut ++ r.packets.take (n + 1)
          handlerLeft := some 0
          rejLog := s.rejLog ++ l
          scanState := .inPass
          subState := .inHandler
          lock := .heldScan
          work := w
          pos := p })

/-- Chunking independence (R179): a pass over `a`, then one over what it left with `c` appended, emit and reject
together what one pass over `a ++ c` does, and leave the same bytes. -/
def Obligations.ChunkBoundariesDoNotMatter : Prop :=
  ∀ (s t u v : State) (c : Bytes), s.live → s.scanState = .armed → s.lock = .free → s.handlerLeft = none →
    s.rxWait = [] →
    exec .scanPass s = .next t →
    exec .scanPass { t with scanState := .armed, rxbuf := t.rxbuf ++ c } = .next u →
    exec .scanPass { s with rxbuf := s.rxbuf ++ c } = .next v →
    u.pktOut = v.pktOut ∧ u.rejLog = v.rejLog ∧ u.rxbuf = v.rxbuf

/-- After every pass the buffer is empty or begins with an SOF value whose candidate needs more bytes, and then it is
at most 1029 bytes long (R187); what is left is a suffix of what was there (R176). -/
def Obligations.PassLeavesAnUndecidedCandidate : Prop :=
  ∀ s t : State, s.scanState = .armed → s.lock = .free → s.handlerLeft = none → s.rxWait = [] →
    exec .scanPass s = .next t →
    t.rxbuf <:+ s.rxbuf ∧
      (t.rxbuf = [] ∨
        ((byteAt t.rxbuf 0 = 0x02 ∨ byteAt t.rxbuf 0 = 0x03) ∧
          (∃ k, classify t.cfg.crc t.registry t.rxbuf = .needMore k) ∧ t.rxbuf.length ≤ 1029))

/-- No received byte can cause a fatal fault: whatever the buffer and the chunk, RX_APPEND, LOOP_TEST and SCAN_PASS
raise nothing, and neither does CREATE_PACKET, with the EXTRACT_FRAME it calls, on a non-empty window (R259). -/
def Obligations.ReceivedBytesNeverFault : Prop :=
  ∀ (s t : State) (chunk w : Bytes), s.live → w ≠ [] →
    (exec (.rxAppend chunk) s = .next t ∨ exec .loopTest s = .next t ∨ exec .scanPass s = .next t ∨
      exec (.createPacket w) s = .next t) → t.live

/-- The atomic SCAN_PASS is the pass taken instruction by instruction: with nothing pending, the machine's own steps
from an armed state reach exactly the state SCAN_PASS gives (R25, R60, R155; log entry 9). -/
def Obligations.AtomicPassIsTheStepwisePass : Prop :=
  ∀ s t : State, s.pending = [] → s.scanState = .armed → s.lock = .free →
    exec .scanPass s = .next t → ∃ k, Sys2Proof.core.run k s = .next t

/-- A packet handler that does not return leaves the scanner stuck for ever with the lock held: the machine's own
steps change nothing, the scanner's operations have no step and a callback waits (R251, 93 U8, U9; log entry 18). -/
def Obligations.HungHandlerHoldsTheLock : Prop :=
  ∀ (s : State) (chunk : Bytes), s.live → Inv s → s.subState = .inHandler →
    (s.pending = [] → step s = .next s) ∧ exec .scanPass s = .refused .notEnabled ∧
      exec .loopTest s = .refused .notEnabled ∧
      exec (.rxAppend chunk) s = .next { s with rxWait := s.rxWait ++ [chunk] }

/-! ### The wire rows inside a pass (R81, R82, R90, R91, R151, R173 to R175) -/

/-- The scanner's steps exist only in their state: SCAN_PASS in ARMED (where it waits for a held lock), LOOP_TEST in
IDLE, the wire rows at their place inside a pass (R25, R172, R178). -/
def Obligations.ScannerStepsNeedTheirState : Prop :=
  ∀ (s : State) (b : Byte), s.live →
    (s.scanState ≠ .armed → exec .scanPass s = .refused .notEnabled) ∧
    (s.scanState = .armed → s.lock ≠ .free → exec .scanPass s = .next s) ∧
    (s.scanState ≠ .idle → exec .loopTest s = .refused .notEnabled) ∧
    ((s.scanState ≠ .inPass ∨ s.subState ≠ .search) →
      exec .frameSmall s = .refused .notEnabled ∧ exec .frameLarge s = .refused .notEnabled ∧
        exec (.nonCandidate b) s = .refused .notEnabled) ∧
    ((s.scanState ≠ .inPass ∨ s.subState ≠ .typeLookup) →
      exec .firmwareVersion s = .refused .notEnabled ∧ exec .telemetry s = .refused .notEnabled ∧
        exec (.unknownType b) s = .refused .notEnabled)

/-- NON_CANDIDATE moves the scan position past its byte and does nothing else (R173). -/
def Obligations.NonCandidateIsSkipped : Prop :=
  ∀ (s : State) (b : Byte), s.live → s.scanState = .inPass → s.subState = .search →
    exec (.nonCandidate b) s = .next { s with pos := s.pos + 1 }

/-- FRAME_SMALL and FRAME_LARGE at a candidate: an incomplete one ends the pass with the window kept, a rejected one
costs one byte and a log entry, a structurally valid one goes on to its type identifier with its place and size in
the transient registers; the registry freezes and no other state changes (R90, R142, R175, R176). -/
def Obligations.FrameRowsClassifyTheCandidate : Prop :=
  ∀ (s : State) (i : Instr) (r : CreateResult), s.live → s.scanState = .inPass → s.subState = .search →
    s.pos < s.rxbuf.length →
    (i = .frameSmall ∧ byteAt (window s) 0 = 0x02 ∨ i = .frameLarge ∧ byteAt (window s) 0 = 0x03) →
    r = classify s.cfg.crc s.registry (window s) →
    ∃ w : WorkRegs,
      (∀ k, r = .needMore k →
        exec i s = .next { s with work := w, regFrozen := true, rxbuf := window s ++ s.rxWait.flatten, rxWait := [],
                                  lock := .free, scanState := .idle }) ∧
      (∀ e, r = .reject e → e ≠ .unknownType →
        exec i s = .next { s with work := w, regFrozen := true, rejLog := s.rejLog ++ [e], pos := s.pos + 1 }) ∧
      ((r = .reject .unknownType ∨ ∃ p, r = .packet p) →
        exec i s = .next { s with work := w, regFrozen := true, subState := .typeLookup } ∧
          w.hdr = headerSize (window s) ∧ w.n.toNat = declaredLength (window s) ∧
          w.total = totalLength (window s))

/-- The inbound TID rows look their identifier up. A registered one hands the candidate's frame to the handler, once, as a
packet of its constructor's kind, which uses up one of the handler's coming calls, and passes over the frame; where that
call does not return, the scanner stays at the candidate with the lock held and the buffer as it was (R251; log entry 18).
An unregistered one is rejected at the cost of one byte. Nothing else changes (R151, R152, R174, R175). -/
def Obligations.TypeRowsDispatchTheCandidate : Prop :=
  ∀ (s : State) (i : Instr) (tid : Byte), s.live → s.scanState = .inPass → s.subState = .typeLookup →
    CandidateReady s.work s.pos s.rxbuf.length →
    (i = .firmwareVersion ∧ tid = s.cfg.tidFwVersion ∨ i = .telemetry ∧ tid = s.cfg.tidGetValues ∨
      i = .unknownType tid) →
    (∀ k, Registry.find s.registry tid = some k →
      let p : Packet := ⟨⟨(s.rxbuf.drop s.pos).take s.work.total, s.work.hdr, s.work.n.toNat⟩, k⟩
      (s.handlerLeft ≠ some 0 →
        exec i s = .next { s with
          work := { s.work with tid := tid }
          pktOut := s.pktOut ++ [p]
          handlerLeft := s.handlerLeft.map (· - 1)
          pos := s.pos + s.work.total
          subState := .search }) ∧
      (s.handlerLeft = some 0 →
        exec i s = .next { s with
          work := { s.work with tid := tid }
          pktOut := s.pktOut ++ [p]
          subState := .inHandler })) ∧
    (Registry.find s.registry tid = none →
      exec i s = .next { s with
        work := { s.work with tid := tid }
        rejLog := s.rejLog ++ [.unknownType]
        pos := s.pos + 1
        subState := .search })

/-! ### Start, stop, handlers, sending (R182 to R186) -/

/-- START: with a packet handler set it clears the buffer, freezes the registry, sets the run flag and starts the loop
at its top; while the scanner runs it answers ALREADY_RUNNING and changes nothing; without a packet handler it is
refused (R183; the caller's result register is the model's, log entry 14). -/
def Obligations.StartBeginsAFreshConnection : Prop :=
  ∀ s : State, s.live →
    (s.pktHandler = .set → s.scanState = .stopped → exec .start s = .next { s with
      regFrozen := true, rxbuf := [], run := true, scanState := .idle, result := .ok }) ∧
    (s.pktHandler = .set → s.scanState ≠ .stopped → exec .start s = .next { s with result := .alreadyRunning }) ∧
    (s.pktHandler = .unset → exec .start s = .refused .startWithoutHandler)

/-- The handler setters, while stopped, set their register and nothing else; while the scanner runs they are refused
(R185, R186, R277; the caller's result register is the model's, log entry 14). -/
def Obligations.HandlersAreSetWhileStopped : Prop :=
  ∀ s : State, s.live →
    (s.scanState = .stopped →
      exec .setPacketHandler s = .next { s with pktHandler := .set, result := .none } ∧
        exec .setErrorHandler s = .next { s with errHandler := .set, result := .none }) ∧
    (s.scanState ≠ .stopped →
      exec .setPacketHandler s = .refused .handlerChangeWhileRunning ∧
        exec .setErrorHandler s = .refused .handlerChangeWhileRunning)

/-- STOP clears the run flag and waits in its join; when stopped it does nothing (R184). -/
def Obligations.StopClearsTheRunFlag : Prop :=
  ∀ s : State, s.live →
    (s.scanState = .stopped → exec .stop s = .next { s with result := .none }) ∧
    (s.scanState ≠ .stopped → exec .stop s = .next { s with run := false, joinWait := true, result := .none })

/-- After a STOP of a running block at most the armed pass still runs, and it sees the bytes received since. Once it has run,
or where none was armed, a SCAN_PASS is refused and LOOP_TEST ends the loop, with the buffer empty and the join lifted,
whatever is received in between. Registry and handlers stay (R178, R184, R273). -/
def Obligations.StopEndsAtTheNextLoopTest : Prop :=
  ∀ (s : State) (cs ds : List Bytes), s.live → s.lock = .free → s.handlerLeft = none →
    let ended (v : State) : Prop := v.scanState = .stopped ∧ v.run = false ∧ v.rxbuf = [] ∧ v.joinWait = false ∧
      v.registry = s.registry ∧ v.pktHandler = s.pktHandler ∧ v.errHandler = s.errHandler
    (s.scanState = .idle → ∃ t u v, exec .stop s = .next t ∧ receiveAll cs t = .next u ∧
      exec .scanPass u = .refused .notEnabled ∧ exec .loopTest u = .next v ∧ ended v) ∧
    (s.scanState = .armed → ∃ t u p q v, exec .stop s = .next t ∧ receiveAll cs t = .next u ∧
      exec .loopTest u = .refused .notEnabled ∧
      exec .scanPass u = .next p ∧ p.scanState = .idle ∧ p.run = false ∧
      p.pktOut = s.pktOut ++ (scan s.cfg.crc s.registry (s.rxbuf ++ cs.flatten)).packets ∧
      receiveAll ds p = .next q ∧ exec .scanPass q = .refused .notEnabled ∧ exec .loopTest q = .next v ∧ ended v)

/-- SEND hands the frame's bytes to the transport and touches nothing else (R182). -/
def Obligations.SendAppendsTheFrame : Prop :=
  ∀ (s : State) (f : Frame), s.live →
    exec (.send f) s = .next { s with txOut := s.txOut ++ [f.buf], result := .none }

/-! ### Outbound commands (R200 to R213) -/

/-- Each command encoder returns the packet whose frame is `FRAME([tid] ++ field)` with the field its row of R204
gives, and changes no other state; the frame does not depend on any unwritten byte (R201, R205 to R212). `fix` is over the
configured REAL (log entry 17); that a call completes on an argument that is no number, with a free field, is the model's
choice (log entry 16). -/
def Obligations.EncodersBuildTheCommandFrame : Prop :=
  ∀ (s : State) (x : RealArg), s.live →
    let answer (k : Kind) (p : Bytes) : Out :=
      .next { s with result := .packet ⟨⟨frameOf s.cfg.crc p, 2, p.length⟩, k⟩ }
    exec .encRequestFwVersion s = answer .requestFirmwareVersion [s.cfg.tidFwVersion] ∧
    exec .encRequestTelemetry s = answer .requestTelemetry [s.cfg.tidGetValues] ∧
    exec (.encSetDutyCycle x) s =
      answer .setDutyCycle (s.cfg.tidSetDuty :: beBytes 4 (fix s.cfg.real x 100000 32).toNat) ∧
    exec (.encSetCurrent x) s =
      answer .setCurrent (s.cfg.tidSetCurrent :: beBytes 4 (fix s.cfg.real x 1000 32).toNat) ∧
    exec (.encSetCurrentBrake x) s =
      answer .setCurrentBrake (s.cfg.tidSetCurrentBrake :: beBytes 4 (fix s.cfg.real x 1000 32).toNat) ∧
    exec (.encSetRpm x) s = answer .setRPM (s.cfg.tidSetRpm :: beBytes 4 (fix s.cfg.real x 1 32).toNat) ∧
    exec (.encSetPosition x) s =
      answer .setPosition (s.cfg.tidSetPos :: beBytes 4 (fix s.cfg.real x 1000000 32).toNat) ∧
    exec (.encSetServoPosition x) s =
      answer .setServoPosition (s.cfg.tidSetServoPos :: beBytes 2 (fix s.cfg.real x 1000 16).toNat)

/-- Each outbound TID row gives the packet whose payload is the row's own encoding, identifier and field, and changes
no other state (R89, R94, R201; the rows as instructions are log entry 29). -/
def Obligations.CommandRowsBuildTheirPayload : Prop :=
  ∀ (s : State) (v : Quad) (h : Half) (i : Instr) (k : Kind), s.live →
    (i, k) ∈ [(Instr.requestFirmwareVersion, Kind.requestFirmwareVersion), (.requestTelemetry, .requestTelemetry),
      (.setDutyCycle v, .setDutyCycle), (.setCurrent v, .setCurrent), (.setCurrentBrake v, .setCurrentBrake),
      (.setRPM v, .setRPM), (.setPosition v, .setPosition), (.setServoPosition h, .setServoPosition)] →
    let p : Bytes := Sys2Proof.encode s.cfg i
    exec i s = .next { s with result := .packet ⟨⟨frameOf s.cfg.crc p, 2, p.length⟩, k⟩ }

/-- Over exact REAL, the normative reading, a command's field decodes back within its resolution, the error toward zero,
wherever the scaled argument fits the field (R213). -/
def Obligations.CommandFieldsRoundTrip : Prop :=
  ∀ (x : Rat) (scale w : Nat), 1 ≤ scale → (w = 16 ∨ w = 32) → |x * scale| < 2 ^ (w - 1) →
    |unfix (fix .exact (.fin x) scale w).toNat scale w - x| < 1 / scale ∧
      (0 ≤ x → unfix (fix .exact (.fin x) scale w).toNat scale w ≤ x) ∧
      (x ≤ 0 → x ≤ unfix (fix .exact (.fin x) scale w).toNat scale w)

/-- Over exact REAL out-of-range arguments wrap: the field is the truncated product modulo `2^W` (R86, R203). -/
def Obligations.CommandFieldsWrap : Prop :=
  ∀ (x : Rat) (scale w : Nat),
    ((fix .exact (.fin x) scale w).toNat : Int) = (if 0 ≤ x then ⌊x * scale⌋ else ⌈x * scale⌉) % 2 ^ w

/-- A binary REAL rounds once, to nearest (R203). A finite result is a value of the type, none is nearer, and of two equally
near the one with an even significand is taken. A number gives a finite result up to half a last place beyond the greatest
value, from there on an infinity of its sign. A value of the type stays as it is, and where argument and product are both
values of REAL, FIX is that of exact REAL. The shape of the format, its ties, its subnormal numbers and its infinities are
the model's (log entry 17); a type of greatest exponent 0 has no normal numbers, one without fraction bits no even ones. -/
def Obligations.BinaryRealsRoundToNearest : Prop :=
  ∀ f e : Nat,
    (∀ q v : Rat, roundBinary f e q = .fin v →
      BinaryValue f e v ∧ |v| < 2 ^ (e + 1) ∧ (∀ v', BinaryValue f e v' → |v - q| ≤ |v' - q|) ∧
        (1 ≤ f → ∀ v', BinaryValue f e v' → v' ≠ v → |v' - q| = |v - q| →
          ∃ m k : Int, |2 * m| < 2 ^ (f + 1) ∧ 1 - (e : Int) - f ≤ k ∧ v = 2 * m * (2 : Rat) ^ k)) ∧
    (1 ≤ e → ∀ q : Rat,
      let beyond : Rat := 2 ^ (e + 1) - (2 : Rat) ^ ((e : Int) - f - 1)
      (|q| < beyond → ∃ v, roundBinary f e q = .fin v) ∧
        (beyond ≤ q → roundBinary f e q = .posInf) ∧ (q ≤ -beyond → roundBinary f e q = .negInf)) ∧
    (∀ v : Rat, BinaryValue f e v → |v| < 2 ^ (e + 1) → roundBinary f e v = .fin v) ∧
    (∀ (x : Rat) (scale w : Nat), toReal (.binary f e) x = .fin x → toReal (.binary f e) (x * scale) = .fin (x * scale) →
      fix (.binary f e) (.fin x) scale w = fix .exact (.fin x) scale w)

/-! ### Records (R202, R220 to R231) -/

/-- The decoder constructors complete on every frame: they store it and do nothing else (R153, R220, R230). -/
def Obligations.DecodersStoreTheFrame : Prop :=
  ∀ (s : State) (f : Frame), s.live →
    exec (.decTelemetry .construct f) s = .next { s with result := .packet ⟨f, .telemetry⟩ } ∧
      exec (.decFwVersion .construct f) s =
        .next { s with result := .packet ⟨f, .firmwareVersion⟩ }

/-- `temp_fet`, the one field the source places: payload bytes 1 and 2, signed, over 10, so that `00 96` is 15.0 and `FF 9C`
is -10.0 (R202, R223; both over exact REAL); a payload without them raises ACCESS_RANGE (R222). The clause over every
configured REAL gives the quotient as the nearest value of REAL (R203), whose binary formats are the model's choice (log entry
17). -/
def Obligations.TempFetIsTenthsOfADegree : Prop :=
  ∀ (s : State) (f : Frame) (t hi lo : Byte) (rest : Bytes), s.live →
    (payload f = t :: hi :: lo :: rest →
      exec (.decTelemetry (.access .tempFet) f) s =
        .next { s with result := .real (toReal s.cfg.real (mkRat (hi ++ lo : Half).toInt 10)) }) ∧
    (s.cfg.real = .exact → payload f = t :: 0x00 :: 0x96 :: rest →
      exec (.decTelemetry (.access .tempFet) f) s = .next { s with result := .real (.fin 15) }) ∧
    (s.cfg.real = .exact → payload f = t :: 0xFF :: 0x9C :: rest →
      exec (.decTelemetry (.access .tempFet) f) s = .next { s with result := .real (.fin (-10)) }) ∧
    ((payload f).length < 3 →
      exec (.decTelemetry (.access .tempFet) f) s = .next { s with faulted := some (.accessRange .payload 1 2) })

/-- The table of R221, for every layout: each scaled accessor gives its own field, signed, over its own scale, as a value of
REAL; the two tachometer accessors the signed integer; the fault code and the controller id the unsigned byte at their
offset. A field not wholly inside the payload raises ACCESS_RANGE. Nothing but the caller's result changes (R202, R203, R222).
Two clauses are the model's choice: the binary formats of REAL, and their ties (log entry 17), and that a fault code or
controller id configured wider than a byte needs its whole field and gives the first byte of it (log entry 35). -/
def Obligations.TelemetryAccessorsReadOrFault : Prop :=
  ∀ (s : State) (f : Frame), s.live →
    let l := s.cfg.tel
    let bits (p : FieldPos) := BitVec.ofNat (8 * widthBytes p.w) (beNat (slice (payload f) p.off (widthBytes p.w)))
    let reads (a : TelField) (p : FieldPos) (value : CallResult) : Prop :=
      (p.off + widthBytes p.w ≤ (payload f).length →
        exec (.decTelemetry (.access a) f) s = .next { s with result := value }) ∧
      ((payload f).length < p.off + widthBytes p.w →
        exec (.decTelemetry (.access a) f) s =
          .next { s with faulted := some (.accessRange .payload p.off (widthBytes p.w)) })
    (∀ row ∈ ([(.tempFet, ⟨1, .w16⟩, 10), (.tempMotor, l.tempMotor, 10), (.currentMotor, l.currentMotor, 100),
        (.currentIn, l.currentIn, 100), (.dutyNow, l.dutyNow, 1000), (.rpm, l.rpm, 1), (.vIn, l.vIn, 10),
        (.ampHours, l.ampHours, 10000), (.ampHoursCharged, l.ampHoursCharged, 10000),
        (.wattHours, l.wattHours, 10000), (.wattHoursCharged, l.wattHoursCharged, 10000),
        (.pidPos, l.pidPos, 1000000), (.tempMos1, l.tempMos1, 10), (.tempMos2, l.tempMos2, 10),
        (.tempMos3, l.tempMos3, 10), (.vD, l.vD, 1000), (.vQ, l.vQ, 1000)] : List (TelField × FieldPos × Nat)),
      reads row.1 row.2.1 (.real (toReal s.cfg.real (mkRat (bits row.2.1).toInt row.2.2)))) ∧
    (∀ row ∈ ([(.tachometer, l.tachometer), (.tachometerAbs, l.tachometerAbs)] : List (TelField × FieldPos)),
      reads row.1 row.2 (.int (bits row.2).toInt)) ∧
    (∀ row ∈ ([(.faultCode, l.faultCode), (.controllerId, l.controllerId)] : List (TelField × FieldPos)),
      reads row.1 row.2 (.byte (byteAt (payload f) row.2.off)))

/-- The firmware-version record: on a payload that spells one, every accessor completes with its field and changes
nothing but the caller's result (R230). -/
def Obligations.FirmwareRecordFieldsAreRead : Prop :=
  ∀ (s : State) (f : Frame) (tid major minor pairedFlag device : Byte) (name uuid rest : Bytes), s.live →
    payload f = [tid, major, minor] ++ name ++ [0x00] ++ uuid ++ [pairedFlag, device] ++ rest →
    (∀ b ∈ name, b ≠ 0) → uuid.length = 12 →
    exec (.decFwVersion (.access .fwMajor) f) s = .next { s with result := .byte major } ∧
      exec (.decFwVersion (.access .fwMinor) f) s = .next { s with result := .byte minor } ∧
      exec (.decFwVersion (.access .hwName) f) s = .next { s with result := .bytes name } ∧
      exec (.decFwVersion (.access .uuid) f) s = .next { s with result := .bytes uuid } ∧
      exec (.decFwVersion (.access .paired) f) s = .next { s with result := .byte pairedFlag } ∧
      exec (.decFwVersion (.access .deviceVersion) f) s = .next { s with result := .byte device }

/-- The firmware-version accessors on payloads that end early: each completes exactly where its own bytes lie in the payload
and raises ACCESS_RANGE otherwise; without a NUL byte at or after offset 3 the name and every later accessor raise it
(R230, R245). The access a failed search for the NUL records is the model's (log entry 23). -/
def Obligations.ShortFirmwareRecordsAreOutOfRange : Prop :=
  ∀ (s : State) (f : Frame), s.live →
    let gives (a : FwField) (v : CallResult) : Prop :=
      exec (.decFwVersion (.access a) f) s = .next { s with result := v }
    let faults (a : FwField) (addr n : Nat) : Prop :=
      exec (.decFwVersion (.access a) f) s = .next { s with faulted := some (.accessRange .payload addr n) }
    (2 ≤ (payload f).length → gives .fwMajor (.byte (byteAt (payload f) 1))) ∧
    ((payload f).length < 2 → faults .fwMajor 1 1) ∧
    (3 ≤ (payload f).length → gives .fwMinor (.byte (byteAt (payload f) 2))) ∧
    ((payload f).length < 3 → faults .fwMinor 2 1) ∧
    ((∀ b ∈ (payload f).drop 3, b ≠ 0) →
      ∀ a ∈ [FwField.hwName, .uuid, .paired, .deviceVersion], faults a (max 3 (payload f).length) 1) ∧
    (∀ h name rest : Bytes, payload f = h ++ name ++ 0x00 :: rest → h.length = 3 → (∀ b ∈ name, b ≠ 0) →
      let z := 3 + name.length
      gives .hwName (.bytes name) ∧
      (12 ≤ rest.length → gives .uuid (.bytes (rest.take 12))) ∧ (rest.length < 12 → faults .uuid (z + 1) 12) ∧
      (13 ≤ rest.length → gives .paired (.byte (byteAt rest 12))) ∧ (rest.length < 13 → faults .paired (z + 13) 1) ∧
      (14 ≤ rest.length → gives .deviceVersion (.byte (byteAt rest 13))) ∧
      (rest.length < 14 → faults .deviceVersion (z + 14) 1))

/-! ### Byte spaces (R16, R21, R53) -/

/-- A read of one byte is the byte at its address (R16), and a wide read sees exactly the bytes at its addresses, the high
half first (R53). -/
def Obligations.WideReadsAreTheirBytes : Prop :=
  ∀ (sp : Space) (m : Bytes) (a : Nat),
    (a + 1 ≤ m.length → memRead sp m a 1 = .ok (byteAt m a).toNat ∧ m[a]? = some (byteAt m a)) ∧
    (a + 2 ≤ m.length → ∃ x y, memRead sp m a 1 = .ok x ∧ memRead sp m (a + 1) 1 = .ok y ∧
      memRead sp m a 2 = .ok (x <<< 8 ||| y)) ∧
    (a + 4 ≤ m.length → ∃ x y, memRead sp m a 2 = .ok x ∧ memRead sp m (a + 2) 2 = .ok y ∧
      memRead sp m a 4 = .ok (x <<< 16 ||| y))

/-- A write stores its value at its bytes, leaves every other byte and the length alone, and is in range exactly where
a read of the same width is (R16). -/
def Obligations.WritesReachTheirBytesOnly : Prop :=
  ∀ (sp : Space) (m : Bytes) (a n v : Nat),
    (a + n ≤ m.length → ∃ m', memWrite sp m a n v = .ok m' ∧ m'.length = m.length ∧
      memRead sp m' a n = .ok (v % 256 ^ n) ∧ ∀ i, i < a ∨ a + n ≤ i → m'[i]? = m[i]?) ∧
    (m.length < a + n → memWrite sp m a n v = .error (.accessRange sp a n) ∧
      memRead sp m a n = .error (.accessRange sp a n))

/-- The receive buffer changes only as R21 says: RX_APPEND appends, a pass drops a prefix (and takes in the chunks
that waited), START and the loop's end clear; no other instruction changes a byte of it. -/
def Obligations.ReceiveBufferIsAppendConsume : Prop :=
  ∀ (s t : State) (i : Instr), exec i s = .next t →
    (t.rxbuf = s.rxbuf) ∨
    (∃ c, i = .rxAppend c ∧ t.rxbuf = s.rxbuf ++ c) ∨
    ((i = .start ∨ i = .loopTest) ∧ t.rxbuf = []) ∨
    ((i = .scanPass ∨ i.format = .sof ∨ i.format = .tidIn) ∧
      ∃ n, t.rxbuf = s.rxbuf.drop n ++ s.rxWait.flatten)

/-- Rights of the agents (R253): what RX, SCAN and APP instructions may write. An instruction of the application alone
leaves the lock, the scan position and the traces of the scanner alone, but for START the receive buffer and the scanner's
state too, but for START and STOP the run flag, and but for REGISTER_TYPE the registry, which in a frozen machine nothing
changes. What SCAN and APP both may call, CREATE_PACKET and CRC16, changes the freeze, the transient registers, the caller's
result and FAULTED alone. RX writes only the buffer or its place in the wait. The scanner's own instructions leave the
registry, the handlers, the run flag and the transmit trace alone, and give a result to nobody, but for EXTRACT_FRAME and a
decoder constructor called as such. Which agent has which instruction is log entry 38. -/
def Obligations.AgentsKeepToTheirRights : Prop :=
  ∀ (s t : State) (i : Instr), exec i s = .next t →
    (i.agents = [.app] → t.lock = s.lock ∧ t.pos = s.pos ∧ t.pktOut = s.pktOut ∧ t.rejLog = s.rejLog ∧ t.work = s.work ∧
      t.subState = s.subState ∧ t.rxWait = s.rxWait ∧
      (i ≠ .start → (∀ a, readByte t a = readByte s a) ∧ t.scanState = s.scanState ∧ t.regFrozen = s.regFrozen) ∧
      (i ≠ .start → i ≠ .stop → t.run = s.run ∧ t.joinWait = s.joinWait) ∧
      ((∀ tid k, i ≠ .registerType tid k) ∨ s.regFrozen = true → t.registry = s.registry)) ∧
    (i.agents = [.scan, .app] →
      t = { s with regFrozen := t.regFrozen, work := t.work, result := t.result, faulted := t.faulted }) ∧
    (i.agents = [.rx] → t = { s with rxbuf := t.rxbuf, rxWait := t.rxWait }) ∧
    (i.agents = [.scan] → t.registry = s.registry ∧ t.run = s.run ∧ t.pktHandler = s.pktHandler ∧
      t.errHandler = s.errHandler ∧ t.txOut = s.txOut ∧ t.freeCount = s.freeCount ∧
      (i.format ≠ .op ∨ i = .scanPass ∨ i = .loopTest → t.result = s.result))

/-- No operation depends on the transient registers (R271), the error handler, the poll interval (R34, R36), the output
traces, which the block never reads (R31, R32), or the ghost log (R33). Of two states that agree on everything else, the
outcomes agree on everything else, each is its own start's traces with the same entries appended to both, neither changes
the poll interval, and the error handler is either left in both or set in both. -/
def Obligations.UnreadStateIsNeverRead : Prop :=
  ∀ (s t : State) (i : Instr), (i.format = .op ∨ i.format = .tidOut) →
    forgetUnread (forgetTransients s) = forgetUnread (forgetTransients t) →
    mapNext (fun u => forgetUnread (forgetTransients u)) (exec i s) =
        mapNext (fun u => forgetUnread (forgetTransients u)) (exec i t) ∧
      ∀ u v : State, exec i s = .next u → exec i t = .next v →
        (∃ l, u.pktOut = s.pktOut ++ l ∧ v.pktOut = t.pktOut ++ l) ∧
          (∃ l, u.txOut = s.txOut ++ l ∧ v.txOut = t.txOut ++ l) ∧
          (∃ l, u.rejLog = s.rejLog ++ l ∧ v.rejLog = t.rejLog ++ l) ∧
          (u.pollInterval = s.pollInterval ∧ v.pollInterval = t.pollInterval) ∧
          (u.errHandler = s.errHandler ∧ v.errHandler = t.errHandler ∨ u.errHandler = .set ∧ v.errHandler = .set)
end

