-- ==== Sys2Proof/Laws/Bytes.lean ====
section
/-!
SUPPORT. What byte order, sub-sequences and overwriting do.
-/

namespace Sys2Proof.Machine

@[simp] theorem beNat_nil : beNat [] = 0 := rfl

theorem beNat_append (u v : Bytes) : beNat (u ++ v) = beNat u * 256 ^ v.length + beNat v := by
  have key : ∀ (v : Bytes) (x : Nat),
      v.foldl (fun v b => v * 256 + b.toNat) x = x * 256 ^ v.length + beNat v := by
    intro v
    induction v with
    | nil => intro x; simp [beNat]
    | cons b v ih =>
      intro x
      simp only [List.foldl_cons, beNat, List.length_cons]
      rw [ih, ih (0 * 256 + b.toNat)]
      ring
  rw [beNat, List.foldl_append, key]
  rfl

theorem beNat_cons (b : Byte) (v : Bytes) : beNat (b :: v) = b.toNat * 256 ^ v.length + beNat v := by
  have := beNat_append [b] v
  simpa [beNat] using this

theorem beNat_lt (v : Bytes) : beNat v < 256 ^ v.length := by
  induction v with
  | nil => simp
  | cons b v ih =>
    rw [beNat_cons, List.length_cons, pow_succ]
    have := b.isLt
    nlinarith

@[simp] theorem beBytes_length (n v : Nat) : (beBytes n v).length = n := by
  induction n with
  | zero => rfl
  | succ n ih => simp [beBytes, ih]

theorem beNat_beBytes (n v : Nat) : beNat (beBytes n v) = v % 256 ^ n := by
  induction n with
  | zero => simp [beBytes, Nat.mod_one]
  | succ n ih =>
    rw [beBytes, beNat_cons, beBytes_length, ih, BitVec.toNat_ofNat]
    conv_rhs => rw [pow_succ, Nat.mod_mul]
    ring

theorem slice_length {s : Bytes} {a n : Nat} (h : a + n ≤ s.length) : (slice s a n).length = n := by
  simp [slice]; omega

@[simp] theorem slice_append_mid (h p t : Bytes) : slice (h ++ p ++ t) h.length p.length = p := by
  simp [slice, List.append_assoc]

theorem overwrite_mid (h p q t : Bytes) (e : p.length = q.length) :
    overwrite (h ++ p ++ t) h.length q = h ++ q ++ t := by
  simp [overwrite, List.append_assoc, ← e]

@[simp] theorem overwrite_length {s t : Bytes} {a : Nat} (h : a + t.length ≤ s.length) :
    (overwrite s a t).length = s.length := by
  simp [overwrite]; omega

/-- Overwriting leaves every byte outside its range alone. -/
theorem overwrite_getElem? {s t : Bytes} {a i : Nat} (h : a + t.length ≤ s.length) (hi : i < a ∨ a + t.length ≤ i) :
    (overwrite s a t)[i]? = s[i]? := by
  unfold overwrite
  rcases hi with hi | hi
  · rw [List.append_assoc, List.getElem?_append_left (by simp; omega), List.getElem?_take_of_lt hi]
  · rw [List.getElem?_append_right (by simp; omega), List.getElem?_drop]
    congr 1
    simp; omega

/-- What was written is read back. -/
theorem slice_overwrite {s t : Bytes} {a : Nat} (h : a + t.length ≤ s.length) :
    slice (overwrite s a t) a t.length = t := by
  have := slice_append_mid (s.take a) t (s.drop (a + t.length))
  have e : (s.take a).length = a := by simp; omega
  rw [e] at this
  exact this

@[simp] theorem byteAt_cons_zero (b : Byte) (s : Bytes) : byteAt (b :: s) 0 = b := rfl

/-- A byte that exists is not changed by what follows. -/
theorem byteAt_append {s t : Bytes} {i : Nat} (h : i < s.length) : byteAt (s ++ t) i = byteAt s i := by
  rw [byteAt, byteAt, List.getD_eq_getElem?_getD, List.getD_eq_getElem?_getD, List.getElem?_append_left h]

theorem slice_append {s t : Bytes} {a n : Nat} (h : a + n ≤ s.length) : slice (s ++ t) a n = slice s a n := by
  unfold slice
  rw [List.drop_append_of_le_length (by omega), List.take_append_of_le_length (by simp; omega)]

theorem half_toNat (hi lo : Byte) : (half hi lo).toNat = 256 * hi.toNat + lo.toNat := by
  unfold half
  rw [BitVec.toNat_append, Nat.shiftLeft_eq, Nat.mul_comm, ← Nat.two_pow_add_eq_or_of_lt lo.isLt]

theorem half_toNat_eq_beNat (hi lo : Byte) : (half hi lo).toNat = beNat [hi, lo] := by
  rw [half_toNat]; simp [beNat]; omega

end Sys2Proof.Machine
end

