-- ==== Sys2Proof/Laws/State.lean ====
section
/-!
SUPPORT. One lemma per field per named update of the state, true by rfl.
-/

namespace Sys2Proof.Machine

/-! ### raise -/

@[simp] theorem raise_rxbuf (f : FatalFault) (s : State) : (raise f s).rxbuf = s.rxbuf := rfl
@[simp] theorem raise_lock (f : FatalFault) (s : State) : (raise f s).lock = s.lock := rfl
@[simp] theorem raise_pos (f : FatalFault) (s : State) : (raise f s).pos = s.pos := rfl
@[simp] theorem raise_scanState (f : FatalFault) (s : State) : (raise f s).scanState = s.scanState := rfl
@[simp] theorem raise_run (f : FatalFault) (s : State) : (raise f s).run = s.run := rfl
@[simp] theorem raise_work (f : FatalFault) (s : State) : (raise f s).work = s.work := rfl
@[simp] theorem raise_registry (f : FatalFault) (s : State) : (raise f s).registry = s.registry := rfl
@[simp] theorem raise_regFrozen (f : FatalFault) (s : State) : (raise f s).regFrozen = s.regFrozen := rfl
@[simp] theorem raise_pktHandler (f : FatalFault) (s : State) : (raise f s).pktHandler = s.pktHandler := rfl
@[simp] theorem raise_errHandler (f : FatalFault) (s : State) : (raise f s).errHandler = s.errHandler := rfl
@[simp] theorem raise_pollInterval (f : FatalFault) (s : State) : (raise f s).pollInterval = s.pollInterval := rfl
@[simp] theorem raise_faulted (f : FatalFault) (s : State) : (raise f s).faulted = some f := rfl
@[simp] theorem raise_pktOut (f : FatalFault) (s : State) : (raise f s).pktOut = s.pktOut := rfl
@[simp] theorem raise_txOut (f : FatalFault) (s : State) : (raise f s).txOut = s.txOut := rfl
@[simp] theorem raise_rejLog (f : FatalFault) (s : State) : (raise f s).rejLog = s.rejLog := rfl
@[simp] theorem raise_cfg (f : FatalFault) (s : State) : (raise f s).cfg = s.cfg := rfl
@[simp] theorem raise_subState (f : FatalFault) (s : State) : (raise f s).subState = s.subState := rfl
@[simp] theorem raise_handlerLeft (f : FatalFault) (s : State) : (raise f s).handlerLeft = s.handlerLeft := rfl
@[simp] theorem raise_rxWait (f : FatalFault) (s : State) : (raise f s).rxWait = s.rxWait := rfl
@[simp] theorem raise_joinWait (f : FatalFault) (s : State) : (raise f s).joinWait = s.joinWait := rfl
@[simp] theorem raise_result (f : FatalFault) (s : State) : (raise f s).result = s.result := rfl
@[simp] theorem raise_freeCount (f : FatalFault) (s : State) : (raise f s).freeCount = s.freeCount := rfl
@[simp] theorem raise_pending (f : FatalFault) (s : State) : (raise f s).pending = s.pending := rfl

/-! ### returns -/

@[simp] theorem returns_rxbuf (r : CallResult) (s : State) : (returns r s).rxbuf = s.rxbuf := rfl
@[simp] theorem returns_lock (r : CallResult) (s : State) : (returns r s).lock = s.lock := rfl
@[simp] theorem returns_pos (r : CallResult) (s : State) : (returns r s).pos = s.pos := rfl
@[simp] theorem returns_scanState (r : CallResult) (s : State) : (returns r s).scanState = s.scanState := rfl
@[simp] theorem returns_run (r : CallResult) (s : State) : (returns r s).run = s.run := rfl
@[simp] theorem returns_work (r : CallResult) (s : State) : (returns r s).work = s.work := rfl
@[simp] theorem returns_registry (r : CallResult) (s : State) : (returns r s).registry = s.registry := rfl
@[simp] theorem returns_regFrozen (r : CallResult) (s : State) : (returns r s).regFrozen = s.regFrozen := rfl
@[simp] theorem returns_pktHandler (r : CallResult) (s : State) : (returns r s).pktHandler = s.pktHandler := rfl
@[simp] theorem returns_errHandler (r : CallResult) (s : State) : (returns r s).errHandler = s.errHandler := rfl
@[simp] theorem returns_pollInterval (r : CallResult) (s : State) : (returns r s).pollInterval = s.pollInterval := rfl
@[simp] theorem returns_faulted (r : CallResult) (s : State) : (returns r s).faulted = s.faulted := rfl
@[simp] theorem returns_pktOut (r : CallResult) (s : State) : (returns r s).pktOut = s.pktOut := rfl
@[simp] theorem returns_txOut (r : CallResult) (s : State) : (returns r s).txOut = s.txOut := rfl
@[simp] theorem returns_rejLog (r : CallResult) (s : State) : (returns r s).rejLog = s.rejLog := rfl
@[simp] theorem returns_cfg (r : CallResult) (s : State) : (returns r s).cfg = s.cfg := rfl
@[simp] theorem returns_subState (r : CallResult) (s : State) : (returns r s).subState = s.subState := rfl
@[simp] theorem returns_handlerLeft (r : CallResult) (s : State) : (returns r s).handlerLeft = s.handlerLeft := rfl
@[simp] theorem returns_rxWait (r : CallResult) (s : State) : (returns r s).rxWait = s.rxWait := rfl
@[simp] theorem returns_joinWait (r : CallResult) (s : State) : (returns r s).joinWait = s.joinWait := rfl
@[simp] theorem returns_result (r : CallResult) (s : State) : (returns r s).result = r := rfl
@[simp] theorem returns_freeCount (r : CallResult) (s : State) : (returns r s).freeCount = s.freeCount := rfl
@[simp] theorem returns_pending (r : CallResult) (s : State) : (returns r s).pending = s.pending := rfl

/-! ### append -/

@[simp] theorem append_rxbuf (c : Bytes) (s : State) : (append c s).rxbuf = s.rxbuf ++ c := rfl
@[simp] theorem append_lock (c : Bytes) (s : State) : (append c s).lock = s.lock := rfl
@[simp] theorem append_pos (c : Bytes) (s : State) : (append c s).pos = s.pos := rfl
@[simp] theorem append_scanState (c : Bytes) (s : State) : (append c s).scanState = s.scanState := rfl
@[simp] theorem append_run (c : Bytes) (s : State) : (append c s).run = s.run := rfl
@[simp] theorem append_work (c : Bytes) (s : State) : (append c s).work = s.work := rfl
@[simp] theorem append_registry (c : Bytes) (s : State) : (append c s).registry = s.registry := rfl
@[simp] theorem append_regFrozen (c : Bytes) (s : State) : (append c s).regFrozen = s.regFrozen := rfl
@[simp] theorem append_pktHandler (c : Bytes) (s : State) : (append c s).pktHandler = s.pktHandler := rfl
@[simp] theorem append_errHandler (c : Bytes) (s : State) : (append c s).errHandler = s.errHandler := rfl
@[simp] theorem append_pollInterval (c : Bytes) (s : State) : (append c s).pollInterval = s.pollInterval := rfl
@[simp] theorem append_faulted (c : Bytes) (s : State) : (append c s).faulted = s.faulted := rfl
@[simp] theorem append_pktOut (c : Bytes) (s : State) : (append c s).pktOut = s.pktOut := rfl
@[simp] theorem append_txOut (c : Bytes) (s : State) : (append c s).txOut = s.txOut := rfl
@[simp] theorem append_rejLog (c : Bytes) (s : State) : (append c s).rejLog = s.rejLog := rfl
@[simp] theorem append_cfg (c : Bytes) (s : State) : (append c s).cfg = s.cfg := rfl
@[simp] theorem append_subState (c : Bytes) (s : State) : (append c s).subState = s.subState := rfl
@[simp] theorem append_handlerLeft (c : Bytes) (s : State) : (append c s).handlerLeft = s.handlerLeft := rfl
@[simp] theorem append_rxWait (c : Bytes) (s : State) : (append c s).rxWait = s.rxWait := rfl
@[simp] theorem append_joinWait (c : Bytes) (s : State) : (append c s).joinWait = s.joinWait := rfl
@[simp] theorem append_result (c : Bytes) (s : State) : (append c s).result = s.result := rfl
@[simp] theorem append_freeCount (c : Bytes) (s : State) : (append c s).freeCount = s.freeCount := rfl
@[simp] theorem append_pending (c : Bytes) (s : State) : (append c s).pending = s.pending := rfl

/-! ### awaitLock -/

@[simp] theorem awaitLock_rxbuf (c : Bytes) (s : State) : (awaitLock c s).rxbuf = s.rxbuf := rfl
@[simp] theorem awaitLock_lock (c : Bytes) (s : State) : (awaitLock c s).lock = s.lock := rfl
@[simp] theorem awaitLock_pos (c : Bytes) (s : State) : (awaitLock c s).pos = s.pos := rfl
@[simp] theorem awaitLock_scanState (c : Bytes) (s : State) : (awaitLock c s).scanState = s.scanState := rfl
@[simp] theorem awaitLock_run (c : Bytes) (s : State) : (awaitLock c s).run = s.run := rfl
@[simp] theorem awaitLock_work (c : Bytes) (s : State) : (awaitLock c s).work = s.work := rfl
@[simp] theorem awaitLock_registry (c : Bytes) (s : State) : (awaitLock c s).registry = s.registry := rfl
@[simp] theorem awaitLock_regFrozen (c : Bytes) (s : State) : (awaitLock c s).regFrozen = s.regFrozen := rfl
@[simp] theorem awaitLock_pktHandler (c : Bytes) (s : State) : (awaitLock c s).pktHandler = s.pktHandler := rfl
@[simp] theorem awaitLock_errHandler (c : Bytes) (s : State) : (awaitLock c s).errHandler = s.errHandler := rfl
@[simp] theorem awaitLock_pollInterval (c : Bytes) (s : State) : (awaitLock c s).pollInterval = s.pollInterval := rfl
@[simp] theorem awaitLock_faulted (c : Bytes) (s : State) : (awaitLock c s).faulted = s.faulted := rfl
@[simp] theorem awaitLock_pktOut (c : Bytes) (s : State) : (awaitLock c s).pktOut = s.pktOut := rfl
@[simp] theorem awaitLock_txOut (c : Bytes) (s : State) : (awaitLock c s).txOut = s.txOut := rfl
@[simp] theorem awaitLock_rejLog (c : Bytes) (s : State) : (awaitLock c s).rejLog = s.rejLog := rfl
@[simp] theorem awaitLock_cfg (c : Bytes) (s : State) : (awaitLock c s).cfg = s.cfg := rfl
@[simp] theorem awaitLock_subState (c : Bytes) (s : State) : (awaitLock c s).subState = s.subState := rfl
@[simp] theorem awaitLock_handlerLeft (c : Bytes) (s : State) : (awaitLock c s).handlerLeft = s.handlerLeft := rfl
@[simp] theorem awaitLock_rxWait (c : Bytes) (s : State) : (awaitLock c s).rxWait = s.rxWait ++ [c] := rfl
@[simp] theorem awaitLock_joinWait (c : Bytes) (s : State) : (awaitLock c s).joinWait = s.joinWait := rfl
@[simp] theorem awaitLock_result (c : Bytes) (s : State) : (awaitLock c s).result = s.result := rfl
@[simp] theorem awaitLock_freeCount (c : Bytes) (s : State) : (awaitLock c s).freeCount = s.freeCount := rfl
@[simp] theorem awaitLock_pending (c : Bytes) (s : State) : (awaitLock c s).pending = s.pending := rfl

/-! ### release -/

@[simp] theorem release_rxbuf (s : State) : (release s).rxbuf = s.rxbuf ++ s.rxWait.flatten := rfl
@[simp] theorem release_lock (s : State) : (release s).lock = .free := rfl
@[simp] theorem release_pos (s : State) : (release s).pos = s.pos := rfl
@[simp] theorem release_scanState (s : State) : (release s).scanState = s.scanState := rfl
@[simp] theorem release_run (s : State) : (release s).run = s.run := rfl
@[simp] theorem release_work (s : State) : (release s).work = s.work := rfl
@[simp] theorem release_registry (s : State) : (release s).registry = s.registry := rfl
@[simp] theorem release_regFrozen (s : State) : (release s).regFrozen = s.regFrozen := rfl
@[simp] theorem release_pktHandler (s : State) : (release s).pktHandler = s.pktHandler := rfl
@[simp] theorem release_errHandler (s : State) : (release s).errHandler = s.errHandler := rfl
@[simp] theorem release_pollInterval (s : State) : (release s).pollInterval = s.pollInterval := rfl
@[simp] theorem release_faulted (s : State) : (release s).faulted = s.faulted := rfl
@[simp] theorem release_pktOut (s : State) : (release s).pktOut = s.pktOut := rfl
@[simp] theorem release_txOut (s : State) : (release s).txOut = s.txOut := rfl
@[simp] theorem release_rejLog (s : State) : (release s).rejLog = s.rejLog := rfl
@[simp] theorem release_cfg (s : State) : (release s).cfg = s.cfg := rfl
@[simp] theorem release_subState (s : State) : (release s).subState = s.subState := rfl
@[simp] theorem release_handlerLeft (s : State) : (release s).handlerLeft = s.handlerLeft := rfl
@[simp] theorem release_rxWait (s : State) : (release s).rxWait = [] := rfl
@[simp] theorem release_joinWait (s : State) : (release s).joinWait = s.joinWait := rfl
@[simp] theorem release_result (s : State) : (release s).result = s.result := rfl
@[simp] theorem release_freeCount (s : State) : (release s).freeCount = s.freeCount := rfl
@[simp] theorem release_pending (s : State) : (release s).pending = s.pending := rfl

/-! ### freeze -/

@[simp] theorem freeze_rxbuf (s : State) : (freeze s).rxbuf = s.rxbuf := rfl
@[simp] theorem freeze_lock (s : State) : (freeze s).lock = s.lock := rfl
@[simp] theorem freeze_pos (s : State) : (freeze s).pos = s.pos := rfl
@[simp] theorem freeze_scanState (s : State) : (freeze s).scanState = s.scanState := rfl
@[simp] theorem freeze_run (s : State) : (freeze s).run = s.run := rfl
@[simp] theorem freeze_work (s : State) : (freeze s).work = s.work := rfl
@[simp] theorem freeze_registry (s : State) : (freeze s).registry = s.registry := rfl
@[simp] theorem freeze_regFrozen (s : State) : (freeze s).regFrozen = true := rfl
@[simp] theorem freeze_pktHandler (s : State) : (freeze s).pktHandler = s.pktHandler := rfl
@[simp] theorem freeze_errHandler (s : State) : (freeze s).errHandler = s.errHandler := rfl
@[simp] theorem freeze_pollInterval (s : State) : (freeze s).pollInterval = s.pollInterval := rfl
@[simp] theorem freeze_faulted (s : State) : (freeze s).faulted = s.faulted := rfl
@[simp] theorem freeze_pktOut (s : State) : (freeze s).pktOut = s.pktOut := rfl
@[simp] theorem freeze_txOut (s : State) : (freeze s).txOut = s.txOut := rfl
@[simp] theorem freeze_rejLog (s : State) : (freeze s).rejLog = s.rejLog := rfl
@[simp] theorem freeze_cfg (s : State) : (freeze s).cfg = s.cfg := rfl
@[simp] theorem freeze_subState (s : State) : (freeze s).subState = s.subState := rfl
@[simp] theorem freeze_handlerLeft (s : State) : (freeze s).handlerLeft = s.handlerLeft := rfl
@[simp] theorem freeze_rxWait (s : State) : (freeze s).rxWait = s.rxWait := rfl
@[simp] theorem freeze_joinWait (s : State) : (freeze s).joinWait = s.joinWait := rfl
@[simp] theorem freeze_result (s : State) : (freeze s).result = s.result := rfl
@[simp] theorem freeze_freeCount (s : State) : (freeze s).freeCount = s.freeCount := rfl
@[simp] theorem freeze_pending (s : State) : (freeze s).pending = s.pending := rfl

/-! ### emit -/

@[simp] theorem emit_rxbuf (p : Packet) (s : State) : (emit p s).rxbuf = s.rxbuf := rfl
@[simp] theorem emit_lock (p : Packet) (s : State) : (emit p s).lock = s.lock := rfl
@[simp] theorem emit_pos (p : Packet) (s : State) : (emit p s).pos = s.pos := rfl
@[simp] theorem emit_scanState (p : Packet) (s : State) : (emit p s).scanState = s.scanState := rfl
@[simp] theorem emit_run (p : Packet) (s : State) : (emit p s).run = s.run := rfl
@[simp] theorem emit_work (p : Packet) (s : State) : (emit p s).work = s.work := rfl
@[simp] theorem emit_registry (p : Packet) (s : State) : (emit p s).registry = s.registry := rfl
@[simp] theorem emit_regFrozen (p : Packet) (s : State) : (emit p s).regFrozen = s.regFrozen := rfl
@[simp] theorem emit_pktHandler (p : Packet) (s : State) : (emit p s).pktHandler = s.pktHandler := rfl
@[simp] theorem emit_errHandler (p : Packet) (s : State) : (emit p s).errHandler = s.errHandler := rfl
@[simp] theorem emit_pollInterval (p : Packet) (s : State) : (emit p s).pollInterval = s.pollInterval := rfl
@[simp] theorem emit_faulted (p : Packet) (s : State) : (emit p s).faulted = s.faulted := rfl
@[simp] theorem emit_pktOut (p : Packet) (s : State) : (emit p s).pktOut = s.pktOut ++ [p] := rfl
@[simp] theorem emit_txOut (p : Packet) (s : State) : (emit p s).txOut = s.txOut := rfl
@[simp] theorem emit_rejLog (p : Packet) (s : State) : (emit p s).rejLog = s.rejLog := rfl
@[simp] theorem emit_cfg (p : Packet) (s : State) : (emit p s).cfg = s.cfg := rfl
@[simp] theorem emit_subState (p : Packet) (s : State) : (emit p s).subState = s.subState := rfl
@[simp] theorem emit_handlerLeft (p : Packet) (s : State) : (emit p s).handlerLeft = s.handlerLeft.map (· - 1) := rfl
@[simp] theorem emit_rxWait (p : Packet) (s : State) : (emit p s).rxWait = s.rxWait := rfl
@[simp] theorem emit_joinWait (p : Packet) (s : State) : (emit p s).joinWait = s.joinWait := rfl
@[simp] theorem emit_result (p : Packet) (s : State) : (emit p s).result = s.result := rfl
@[simp] theorem emit_freeCount (p : Packet) (s : State) : (emit p s).freeCount = s.freeCount := rfl
@[simp] theorem emit_pending (p : Packet) (s : State) : (emit p s).pending = s.pending := rfl

/-! ### rejectHere -/

@[simp] theorem rejectHere_rxbuf (r : RejectReason) (s : State) : (rejectHere r s).rxbuf = s.rxbuf := rfl
@[simp] theorem rejectHere_lock (r : RejectReason) (s : State) : (rejectHere r s).lock = s.lock := rfl
@[simp] theorem rejectHere_pos (r : RejectReason) (s : State) : (rejectHere r s).pos = s.pos + 1 := rfl
@[simp] theorem rejectHere_scanState (r : RejectReason) (s : State) : (rejectHere r s).scanState = s.scanState := rfl
@[simp] theorem rejectHere_run (r : RejectReason) (s : State) : (rejectHere r s).run = s.run := rfl
@[simp] theorem rejectHere_work (r : RejectReason) (s : State) : (rejectHere r s).work = s.work := rfl
@[simp] theorem rejectHere_registry (r : RejectReason) (s : State) : (rejectHere r s).registry = s.registry := rfl
@[simp] theorem rejectHere_regFrozen (r : RejectReason) (s : State) : (rejectHere r s).regFrozen = s.regFrozen := rfl
@[simp] theorem rejectHere_pktHandler (r : RejectReason) (s : State) : (rejectHere r s).pktHandler = s.pktHandler := rfl
@[simp] theorem rejectHere_errHandler (r : RejectReason) (s : State) : (rejectHere r s).errHandler = s.errHandler := rfl
@[simp] theorem rejectHere_pollInterval (r : RejectReason) (s : State) : (rejectHere r s).pollInterval = s.pollInterval := rfl
@[simp] theorem rejectHere_faulted (r : RejectReason) (s : State) : (rejectHere r s).faulted = s.faulted := rfl
@[simp] theorem rejectHere_pktOut (r : RejectReason) (s : State) : (rejectHere r s).pktOut = s.pktOut := rfl
@[simp] theorem rejectHere_txOut (r : RejectReason) (s : State) : (rejectHere r s).txOut = s.txOut := rfl
@[simp] theorem rejectHere_rejLog (r : RejectReason) (s : State) : (rejectHere r s).rejLog = s.rejLog ++ [r] := rfl
@[simp] theorem rejectHere_cfg (r : RejectReason) (s : State) : (rejectHere r s).cfg = s.cfg := rfl
@[simp] theorem rejectHere_subState (r : RejectReason) (s : State) : (rejectHere r s).subState = .search := rfl
@[simp] theorem rejectHere_handlerLeft (r : RejectReason) (s : State) : (rejectHere r s).handlerLeft = s.handlerLeft := rfl
@[simp] theorem rejectHere_rxWait (r : RejectReason) (s : State) : (rejectHere r s).rxWait = s.rxWait := rfl
@[simp] theorem rejectHere_joinWait (r : RejectReason) (s : State) : (rejectHere r s).joinWait = s.joinWait := rfl
@[simp] theorem rejectHere_result (r : RejectReason) (s : State) : (rejectHere r s).result = s.result := rfl
@[simp] theorem rejectHere_freeCount (r : RejectReason) (s : State) : (rejectHere r s).freeCount = s.freeCount := rfl
@[simp] theorem rejectHere_pending (r : RejectReason) (s : State) : (rejectHere r s).pending = s.pending := rfl

/-! ### transmit -/

@[simp] theorem transmit_rxbuf (b : Bytes) (s : State) : (transmit b s).rxbuf = s.rxbuf := rfl
@[simp] theorem transmit_lock (b : Bytes) (s : State) : (transmit b s).lock = s.lock := rfl
@[simp] theorem transmit_pos (b : Bytes) (s : State) : (transmit b s).pos = s.pos := rfl
@[simp] theorem transmit_scanState (b : Bytes) (s : State) : (transmit b s).scanState = s.scanState := rfl
@[simp] theorem transmit_run (b : Bytes) (s : State) : (transmit b s).run = s.run := rfl
@[simp] theorem transmit_work (b : Bytes) (s : State) : (transmit b s).work = s.work := rfl
@[simp] theorem transmit_registry (b : Bytes) (s : State) : (transmit b s).registry = s.registry := rfl
@[simp] theorem transmit_regFrozen (b : Bytes) (s : State) : (transmit b s).regFrozen = s.regFrozen := rfl
@[simp] theorem transmit_pktHandler (b : Bytes) (s : State) : (transmit b s).pktHandler = s.pktHandler := rfl
@[simp] theorem transmit_errHandler (b : Bytes) (s : State) : (transmit b s).errHandler = s.errHandler := rfl
@[simp] theorem transmit_pollInterval (b : Bytes) (s : State) : (transmit b s).pollInterval = s.pollInterval := rfl
@[simp] theorem transmit_faulted (b : Bytes) (s : State) : (transmit b s).faulted = s.faulted := rfl
@[simp] theorem transmit_pktOut (b : Bytes) (s : State) : (transmit b s).pktOut = s.pktOut := rfl
@[simp] theorem transmit_txOut (b : Bytes) (s : State) : (transmit b s).txOut = s.txOut ++ [b] := rfl
@[simp] theorem transmit_rejLog (b : Bytes) (s : State) : (transmit b s).rejLog = s.rejLog := rfl
@[simp] theorem transmit_cfg (b : Bytes) (s : State) : (transmit b s).cfg = s.cfg := rfl
@[simp] theorem transmit_subState (b : Bytes) (s : State) : (transmit b s).subState = s.subState := rfl
@[simp] theorem transmit_handlerLeft (b : Bytes) (s : State) : (transmit b s).handlerLeft = s.handlerLeft := rfl
@[simp] theorem transmit_rxWait (b : Bytes) (s : State) : (transmit b s).rxWait = s.rxWait := rfl
@[simp] theorem transmit_joinWait (b : Bytes) (s : State) : (transmit b s).joinWait = s.joinWait := rfl
@[simp] theorem transmit_result (b : Bytes) (s : State) : (transmit b s).result = s.result := rfl
@[simp] theorem transmit_freeCount (b : Bytes) (s : State) : (transmit b s).freeCount = s.freeCount := rfl
@[simp] theorem transmit_pending (b : Bytes) (s : State) : (transmit b s).pending = s.pending := rfl

/-! ### skipByte -/

@[simp] theorem skipByte_rxbuf (s : State) : (skipByte s).rxbuf = s.rxbuf := rfl
@[simp] theorem skipByte_lock (s : State) : (skipByte s).lock = s.lock := rfl
@[simp] theorem skipByte_pos (s : State) : (skipByte s).pos = s.pos + 1 := rfl
@[simp] theorem skipByte_scanState (s : State) : (skipByte s).scanState = s.scanState := rfl
@[simp] theorem skipByte_run (s : State) : (skipByte s).run = s.run := rfl
@[simp] theorem skipByte_work (s : State) : (skipByte s).work = s.work := rfl
@[simp] theorem skipByte_registry (s : State) : (skipByte s).registry = s.registry := rfl
@[simp] theorem skipByte_regFrozen (s : State) : (skipByte s).regFrozen = s.regFrozen := rfl
@[simp] theorem skipByte_pktHandler (s : State) : (skipByte s).pktHandler = s.pktHandler := rfl
@[simp] theorem skipByte_errHandler (s : State) : (skipByte s).errHandler = s.errHandler := rfl
@[simp] theorem skipByte_pollInterval (s : State) : (skipByte s).pollInterval = s.pollInterval := rfl
@[simp] theorem skipByte_faulted (s : State) : (skipByte s).faulted = s.faulted := rfl
@[simp] theorem skipByte_pktOut (s : State) : (skipByte s).pktOut = s.pktOut := rfl
@[simp] theorem skipByte_txOut (s : State) : (skipByte s).txOut = s.txOut := rfl
@[simp] theorem skipByte_rejLog (s : State) : (skipByte s).rejLog = s.rejLog := rfl
@[simp] theorem skipByte_cfg (s : State) : (skipByte s).cfg = s.cfg := rfl
@[simp] theorem skipByte_subState (s : State) : (skipByte s).subState = s.subState := rfl
@[simp] theorem skipByte_handlerLeft (s : State) : (skipByte s).handlerLeft = s.handlerLeft := rfl
@[simp] theorem skipByte_rxWait (s : State) : (skipByte s).rxWait = s.rxWait := rfl
@[simp] theorem skipByte_joinWait (s : State) : (skipByte s).joinWait = s.joinWait := rfl
@[simp] theorem skipByte_result (s : State) : (skipByte s).result = s.result := rfl
@[simp] theorem skipByte_freeCount (s : State) : (skipByte s).freeCount = s.freeCount := rfl
@[simp] theorem skipByte_pending (s : State) : (skipByte s).pending = s.pending := rfl

/-! ### passBegin -/

@[simp] theorem passBegin_rxbuf (s : State) : (passBegin s).rxbuf = s.rxbuf := rfl
@[simp] theorem passBegin_lock (s : State) : (passBegin s).lock = .heldScan := rfl
@[simp] theorem passBegin_pos (s : State) : (passBegin s).pos = 0 := rfl
@[simp] theorem passBegin_scanState (s : State) : (passBegin s).scanState = .inPass := rfl
@[simp] theorem passBegin_run (s : State) : (passBegin s).run = s.run := rfl
@[simp] theorem passBegin_work (s : State) : (passBegin s).work = s.work := rfl
@[simp] theorem passBegin_registry (s : State) : (passBegin s).registry = s.registry := rfl
@[simp] theorem passBegin_regFrozen (s : State) : (passBegin s).regFrozen = s.regFrozen := rfl
@[simp] theorem passBegin_pktHandler (s : State) : (passBegin s).pktHandler = s.pktHandler := rfl
@[simp] theorem passBegin_errHandler (s : State) : (passBegin s).errHandler = s.errHandler := rfl
@[simp] theorem passBegin_pollInterval (s : State) : (passBegin s).pollInterval = s.pollInterval := rfl
@[simp] theorem passBegin_faulted (s : State) : (passBegin s).faulted = s.faulted := rfl
@[simp] theorem passBegin_pktOut (s : State) : (passBegin s).pktOut = s.pktOut := rfl
@[simp] theorem passBegin_txOut (s : State) : (passBegin s).txOut = s.txOut := rfl
@[simp] theorem passBegin_rejLog (s : State) : (passBegin s).rejLog = s.rejLog := rfl
@[simp] theorem passBegin_cfg (s : State) : (passBegin s).cfg = s.cfg := rfl
@[simp] theorem passBegin_subState (s : State) : (passBegin s).subState = .search := rfl
@[simp] theorem passBegin_handlerLeft (s : State) : (passBegin s).handlerLeft = s.handlerLeft := rfl
@[simp] theorem passBegin_rxWait (s : State) : (passBegin s).rxWait = s.rxWait := rfl
@[simp] theorem passBegin_joinWait (s : State) : (passBegin s).joinWait = s.joinWait := rfl
@[simp] theorem passBegin_result (s : State) : (passBegin s).result = s.result := rfl
@[simp] theorem passBegin_freeCount (s : State) : (passBegin s).freeCount = s.freeCount := rfl
@[simp] theorem passBegin_pending (s : State) : (passBegin s).pending = s.pending := rfl

/-! ### passEnd -/

@[simp] theorem passEnd_rxbuf (s : State) : (passEnd s).rxbuf = s.rxbuf.drop s.pos ++ s.rxWait.flatten := rfl
@[simp] theorem passEnd_lock (s : State) : (passEnd s).lock = .free := rfl
@[simp] theorem passEnd_pos (s : State) : (passEnd s).pos = s.pos := rfl
@[simp] theorem passEnd_scanState (s : State) : (passEnd s).scanState = .idle := rfl
@[simp] theorem passEnd_run (s : State) : (passEnd s).run = s.run := rfl
@[simp] theorem passEnd_work (s : State) : (passEnd s).work = s.work := rfl
@[simp] theorem passEnd_registry (s : State) : (passEnd s).registry = s.registry := rfl
@[simp] theorem passEnd_regFrozen (s : State) : (passEnd s).regFrozen = s.regFrozen := rfl
@[simp] theorem passEnd_pktHandler (s : State) : (passEnd s).pktHandler = s.pktHandler := rfl
@[simp] theorem passEnd_errHandler (s : State) : (passEnd s).errHandler = s.errHandler := rfl
@[simp] theorem passEnd_pollInterval (s : State) : (passEnd s).pollInterval = s.pollInterval := rfl
@[simp] theorem passEnd_faulted (s : State) : (passEnd s).faulted = s.faulted := rfl
@[simp] theorem passEnd_pktOut (s : State) : (passEnd s).pktOut = s.pktOut := rfl
@[simp] theorem passEnd_txOut (s : State) : (passEnd s).txOut = s.txOut := rfl
@[simp] theorem passEnd_rejLog (s : State) : (passEnd s).rejLog = s.rejLog := rfl
@[simp] theorem passEnd_cfg (s : State) : (passEnd s).cfg = s.cfg := rfl
@[simp] theorem passEnd_subState (s : State) : (passEnd s).subState = .search := rfl
@[simp] theorem passEnd_handlerLeft (s : State) : (passEnd s).handlerLeft = s.handlerLeft := rfl
@[simp] theorem passEnd_rxWait (s : State) : (passEnd s).rxWait = [] := rfl
@[simp] theorem passEnd_joinWait (s : State) : (passEnd s).joinWait = s.joinWait := rfl
@[simp] theorem passEnd_result (s : State) : (passEnd s).result = s.result := rfl
@[simp] theorem passEnd_freeCount (s : State) : (passEnd s).freeCount = s.freeCount := rfl
@[simp] theorem passEnd_pending (s : State) : (passEnd s).pending = s.pending := rfl

end Sys2Proof.Machine
end

