-- ==== Sys2Proof/Laws/Ops.lean ====
section
/-!
SUPPORT. For each shared operation, everything it can do, said once.
-/

namespace Sys2Proof.Machine

/-! ### Taking a fault and the common precondition -/

theorem unlessFaulted_live {s : State} {k : Out} (h : s.faulted = none) : unlessFaulted s k = k := by
  simp [unlessFaulted, h]

theorem unlessFaulted_faulted {s : State} {k : Out} {f : FatalFault} (h : s.faulted = some f) :
    unlessFaulted s k = .fault (.aborted f) := by
  simp [unlessFaulted, h]

theorem unlessFaulted_next {s t : State} {k : Out} (h : unlessFaulted s k = .next t) :
    s.faulted = none ∧ k = .next t := by
  unfold unlessFaulted at h
  split at h
  · exact ⟨‹_›, h⟩
  · cases h

@[simp] theorem orRaise_ok {α : Type} (s : State) (a : α) (k : α → State) : orRaise s (.ok a) k = .next (k a) := rfl

@[simp] theorem orRaise_error {α : Type} (s : State) (f : FatalFault) (k : α → State) :
    orRaise s (.error f) k = .next (raise f s) := rfl

theorem orRaise_next {α : Type} {s t : State} {r : Except FatalFault α} {k : α → State}
    (h : orRaise s r k = .next t) : (∃ a, r = .ok a ∧ t = k a) ∨ ∃ f, r = .error f ∧ t = raise f s := by
  cases r with
  | ok a => exact .inl ⟨a, rfl, by simpa using h.symm⟩
  | error f => exact .inr ⟨f, rfl, by simpa using h.symm⟩

theorem inPassAt_next {sub : SubState} {s t : State} {k : Out} (h : inPassAt sub s k = .next t) :
    s.faulted = none ∧ s.scanState = .inPass ∧ s.subState = sub ∧ k = .next t := by
  obtain ⟨hf, h⟩ := unlessFaulted_next h
  split at h
  · exact ⟨hf, ‹_ ∧ _›.1, ‹_ ∧ _›.2, h⟩
  · cases h

theorem inPassAt_live {sub : SubState} {s : State} {k : Out} (hf : s.faulted = none) (hp : s.scanState = .inPass)
    (hs : s.subState = sub) : inPassAt sub s k = k := by
  simp [inPassAt, unlessFaulted, hf, hp, hs]

/-! ### Byte spaces -/

theorem memRead_ok {sp : Space} {m : Bytes} {a n : Nat} (h : a + n ≤ m.length) :
    memRead sp m a n = .ok (beNat (slice m a n)) := by
  simp [memRead, h]

theorem memRead_error {sp : Space} {m : Bytes} {a n : Nat} (h : m.length < a + n) :
    memRead sp m a n = .error (.accessRange sp a n) := by
  simp [memRead, Nat.not_le.mpr h]

theorem memBlock_ok {sp : Space} {m : Bytes} {a n : Nat} (h : a + n ≤ m.length) :
    memBlock sp m a n = .ok (slice m a n) := by
  simp [memBlock, h]

theorem memBlock_error {sp : Space} {m : Bytes} {a n : Nat} (h : m.length < a + n) :
    memBlock sp m a n = .error (.accessRange sp a n) := by
  simp [memBlock, Nat.not_le.mpr h]

theorem memWrite_ok {sp : Space} {m : Bytes} {a n v : Nat} (h : a + n ≤ m.length) :
    memWrite sp m a n v = .ok (overwrite m a (beBytes n v)) := by
  simp [memWrite, h]

theorem memWrite_error {sp : Space} {m : Bytes} {a n v : Nat} (h : m.length < a + n) :
    memWrite sp m a n v = .error (.accessRange sp a n) := by
  simp [memWrite, Nat.not_le.mpr h]

/-! ### The registry -/

/-- Writing an entry changes that entry and no other. -/
theorem Registry.find_insert (r : Registry) (t : Byte) (k : Kind) (x : Byte) :
    Registry.find (Registry.insert r t k) x = if x = t then some k else Registry.find r x := by
  induction r with
  | nil => simp [Registry.insert, Registry.find, eq_comm]
  | cons e r ih =>
    obtain ⟨u, l⟩ := e
    unfold Registry.insert
    by_cases h1 : t < u
    · rw [if_pos h1]
      simp only [Registry.find, eq_comm (a := t) (b := x)]
    · rw [if_neg h1]
      by_cases h2 : t = u
      · subst h2
        rw [if_pos rfl]
        simp only [Registry.find, eq_comm (a := t) (b := x)]
        by_cases hx : x = t <;> simp [hx]
      · rw [if_neg h2]
        simp only [Registry.find, ih]
        by_cases hx : u = x
        · subst hx
          simp [Ne.symm h2]
        · simp [hx]

theorem Registry.mem_insert {r : Registry} {t : Byte} {k : Kind} {e : Byte × Kind}
    (h : e ∈ Registry.insert r t k) : e = (t, k) ∨ e ∈ r := by
  induction r with
  | nil => simpa [Registry.insert] using h
  | cons d r ih =>
    simp only [Registry.insert] at h
    split_ifs at h <;> simp only [List.mem_cons] at h ⊢ <;> grind

/-- Writing an entry keeps the canonical order. -/
theorem Registry.wf_insert {r : Registry} (h : Registry.wf r) (t : Byte) (k : Kind) :
    Registry.wf (Registry.insert r t k) := by
  induction r with
  | nil => simp [Registry.insert, Registry.wf]
  | cons e r ih =>
    obtain ⟨u, l⟩ := e
    have hp := List.pairwise_cons.mp h
    simp only [Registry.insert]
    split_ifs with h1 h2
    · refine List.pairwise_cons.mpr ⟨fun d hd => ?_, h⟩
      rcases List.mem_cons.mp hd with rfl | hd
      · exact h1
      · exact BitVec.lt_trans h1 (hp.1 d hd)
    · subst h2
      exact List.pairwise_cons.mpr ⟨hp.1, hp.2⟩
    · refine List.pairwise_cons.mpr ⟨fun d hd => ?_, ih hp.2⟩
      rcases Registry.mem_insert hd with rfl | hd
      · show u < t
        bv_omega
      · exact hp.1 d hd

/-! ### The codec -/

theorem extractFrame_ok {raw : Bytes} {off n : Nat} {f : Frame} (h : extractFrame raw off n = .ok f) :
    f = ⟨raw, off, n⟩ ∧ f.wf := by
  unfold extractFrame at h
  split_ifs at h with h1 h2 h3
  have : f = ⟨raw, off, n⟩ := by simpa using h.symm
  subst this
  refine ⟨rfl, ?_, ?_, ?_, ?_⟩ <;> dsimp only [MIN_FRAME_SIZE, MAX_FRAME_SIZE] at * <;> omega

theorem extractFrame_of_range {raw : Bytes} {off n : Nat} (h1 : MIN_FRAME_SIZE ≤ raw.length)
    (h2 : raw.length ≤ MAX_FRAME_SIZE) (h3 : 1 ≤ off) (h4 : off + n + 1 ≤ raw.length) :
    extractFrame raw off n = .ok ⟨raw, off, n⟩ := by
  unfold extractFrame
  rw [if_neg (by omega), if_neg (by omega), if_neg (by omega)]

/-! ### The scan loop -/

/-- A handler call returns unless the handler's coming calls that do are used up. -/
theorem handlerReturns_iff (s : State) : s.handlerReturns = true ↔ s.handlerLeft ≠ some 0 := by
  simp [State.handlerReturns]

/-- What the scanner does with a result, said once. -/
theorem settle_cases (r : CreateResult) (s : State) :
    (∃ p, r = .packet p ∧ s.handlerReturns = true ∧
      settle r s = .again { emit p s with pos := s.pos + p.frame.buf.length, subState := .search }) ∨
    (∃ p, r = .packet p ∧ s.handlerReturns = false ∧ settle r s = .hung { emit p s with subState := .inHandler }) ∨
    (∃ k, r = .needMore k ∧ settle r s = .leave s) ∨
    (∃ e, r = .reject e ∧ settle r s = .again (rejectHere e s)) := by
  cases r with
  | packet p => by_cases h : s.handlerReturns = true <;> simp_all [settle]
  | needMore k => simp [settle]
  | reject e => simp [settle]

end Sys2Proof.Machine
end

