-- ==== Sys2Proof/Laws/Codec.lean ====
section
/-!
SUPPORT. What the frame codec and the command encoders compute.
-/

namespace Sys2Proof.Machine

theorem halfBytes_eq (v : Half) : halfBytes v = [BitVec.ofNat 8 (v.toNat / 256), BitVec.ofNat 8 v.toNat] := by
  simp only [halfBytes, List.cons.injEq, and_true]
  constructor <;> (apply BitVec.eq_of_toNat_eq; simp; try omega)

theorem beNat_halfBytes (v : Half) : beNat (halfBytes v) = v.toNat := by
  have := v.isLt
  simp only [halfBytes_eq, beNat, List.foldl_cons, List.foldl_nil, BitVec.toNat_ofNat]
  omega

@[simp] theorem halfBytes_length (v : Half) : (halfBytes v).length = 2 := rfl

theorem buildFrame_small {free : Nat → Byte} {n : Nat} (h : n ≤ SMALL_MAX) :
    buildFrame free n = .ok
      { buf := [SOF_SMALL, BitVec.ofNat 8 n] ++ (List.range (n + CRC_BYTES)).map free ++ [EOF_VAL],
        payOff := HDR_SMALL, payLen := n } := by
  have h1 : ¬ ((n : Int) < 0 ∨ (n : Int) > MAX_PAYLOAD) := by dsimp only [MAX_PAYLOAD, SMALL_MAX] at *; omega
  simp only [buildFrame, if_neg h1, Int.toNat_natCast, if_pos h]

theorem buildFrame_large {free : Nat → Byte} {n : Nat} (h : SMALL_MAX < n) (hm : n ≤ MAX_PAYLOAD) :
    buildFrame free n = .ok
      { buf := [SOF_LARGE, BitVec.ofNat 8 (n / 256), BitVec.ofNat 8 n] ++ (List.range (n + CRC_BYTES)).map free ++
          [EOF_VAL],
        payOff := HDR_LARGE, payLen := n } := by
  have h1 : ¬ ((n : Int) < 0 ∨ (n : Int) > MAX_PAYLOAD) := by dsimp only [MAX_PAYLOAD] at *; omega
  simp only [buildFrame, if_neg h1, Int.toNat_natCast, if_neg (Nat.not_le.mpr h)]

/-- A block of bytes in the middle of a buffer is read back. -/
theorem memBlock_mid (sp : Space) (h p t : Bytes) : memBlock sp (h ++ p ++ t) h.length p.length = .ok p := by
  rw [memBlock_ok (by simp), slice_append_mid]

/-- A write in the middle of a buffer replaces exactly those bytes. -/
theorem memWrite_mid (sp : Space) (h p t : Bytes) (n v : Nat) (e : p.length = n) :
    memWrite sp (h ++ p ++ t) h.length n v = .ok (h ++ beBytes n v ++ t) := by
  rw [memWrite_ok (by simp; omega), overwrite_mid _ _ _ _ (by simp [e])]

theorem sealFrame_mid (c : CrcParams) (h p t : Bytes) (x y : Byte) :
    sealFrame c ⟨h ++ p ++ [x, y] ++ t, h.length, p.length⟩ =
      .ok ⟨h ++ p ++ halfBytes (crc16 c p) ++ t, h.length, p.length⟩ := by
  have e1 : memBlock .frame (h ++ p ++ [x, y] ++ t) h.length p.length = .ok p := by
    rw [List.append_assoc (h ++ p), memBlock_mid]
  have e2 : ∀ v, memWrite .frame (h ++ p ++ [x, y] ++ t) (h.length + p.length) 1 v =
      .ok (h ++ p ++ [BitVec.ofNat 8 v, y] ++ t) := by
    intro v
    have := memWrite_mid .frame (h ++ p) [x] ([y] ++ t) 1 v rfl
    simpa [List.append_assoc, beBytes] using this
  have e3 : ∀ a v, memWrite .frame (h ++ p ++ [a, y] ++ t) (h.length + p.length + 1) 1 v =
      .ok (h ++ p ++ [a, BitVec.ofNat 8 v] ++ t) := by
    intro a v
    have := memWrite_mid .frame (h ++ p ++ [a]) [y] t 1 v rfl
    simpa [List.append_assoc, beBytes, Nat.add_assoc] using this
  simp only [sealFrame, e1, bind, Except.bind, e2, e3, pure, Except.pure, halfBytes_eq]

/-- A command packet carries `FRAME([tid] ++ field)`, whatever the unwritten bytes were. -/
theorem encPacket_ok (c : CrcParams) (free : Nat → Byte) (tid : Byte) (k : Kind) (n v : Nat) (h : n ≤ 254) :
    encPacket c free tid k n v =
      .ok ⟨⟨frameOf c (tid :: beBytes n v), HDR_SMALL, 1 + n⟩, k⟩ := by
  have hs : 1 + n ≤ SMALL_MAX := by dsimp only [SMALL_MAX]; omega
  obtain ⟨x, mid, a, b, hx, hm⟩ : ∃ x mid a b, (List.range (1 + n + CRC_BYTES)).map free = x :: (mid ++ [a, b]) ∧
      mid.length = n := by
    refine ⟨free 0, (List.range n).map (fun i => free (i + 1)), free (n + 1), free (n + 2), ?_, by simp⟩
    rw [show 1 + n + CRC_BYTES = (n + 1 + 1) + 1 by dsimp only [CRC_BYTES]; omega, List.range_succ_eq_map]
    simp only [List.map_cons, List.map_map, List.range_succ, List.map_append, List.map_nil, List.append_assoc]
    rfl
  have e0 := buildFrame_small (free := free) hs
  rw [hx] at e0
  have w1 : writePayload ⟨[SOF_SMALL, BitVec.ofNat 8 (1 + n)] ++ x :: (mid ++ [a, b]) ++ [EOF_VAL], HDR_SMALL, 1 + n⟩
      0 1 tid.toNat =
      .ok ⟨[SOF_SMALL, BitVec.ofNat 8 (1 + n)] ++ tid :: (mid ++ [a, b]) ++ [EOF_VAL], HDR_SMALL, 1 + n⟩ := by
    have := memWrite_mid .frame [SOF_SMALL, BitVec.ofNat 8 (1 + n)] [x] (mid ++ [a, b] ++ [EOF_VAL]) 1 tid.toNat rfl
    simp only [List.append_assoc, List.cons_append, List.nil_append, List.length_cons, List.length_nil, beBytes,
      pow_zero, Nat.div_one, BitVec.ofNat_toNat, BitVec.setWidth_eq] at this
    simp only [writePayload, HDR_SMALL, List.append_assoc, List.cons_append, List.nil_append]
    rw [if_pos (by omega), this]
    rfl
  have w2 : writePayload
      ⟨[SOF_SMALL, BitVec.ofNat 8 (1 + n)] ++ tid :: (mid ++ [a, b]) ++ [EOF_VAL], HDR_SMALL, 1 + n⟩ 1 n v =
      .ok ⟨[SOF_SMALL, BitVec.ofNat 8 (1 + n)] ++ (tid :: beBytes n v) ++ [a, b] ++ [EOF_VAL], HDR_SMALL, 1 + n⟩ := by
    have := memWrite_mid .frame [SOF_SMALL, BitVec.ofNat 8 (1 + n), tid] mid ([a, b] ++ [EOF_VAL]) n v hm
    simp only [List.cons_append, List.nil_append, List.length_cons, List.length_nil] at this
    simp only [writePayload, HDR_SMALL, List.append_assoc, List.cons_append, List.nil_append]
    rw [if_pos (by omega), this]
    rfl
  have w3 := sealFrame_mid c [SOF_SMALL, BitVec.ofNat 8 (1 + n)] (tid :: beBytes n v) [EOF_VAL] a b
  have hl : (tid :: beBytes n v).length = 1 + n := by simp; omega
  rw [hl] at w3
  have w3' : sealFrame c
      ⟨[SOF_SMALL, BitVec.ofNat 8 (1 + n)] ++ (tid :: beBytes n v) ++ [a, b] ++ [EOF_VAL], HDR_SMALL, 1 + n⟩ = _ := w3
  simp only [encPacket, e0, bind, Except.bind, w1, w2, w3', pure, Except.pure, construct, frameOf, hl, if_pos hs, smallFrame]
  rfl

theorem smallFrame_length (c : CrcParams) (p : Bytes) : (smallFrame c p).length = p.length + 5 := by
  simp [smallFrame]

theorem largeFrame_length (c : CrcParams) (p : Bytes) : (largeFrame c p).length = p.length + 6 := by
  simp [largeFrame]

end Sys2Proof.Machine
end

