-- ==== Sys2Proof/Laws/Decode.lean ====
section
/-!
SUPPORT. Each operand reader undoes its writer, whatever follows; a decoded instruction is one of its format.
-/

namespace Sys2Proof

open Sys2Proof.Machine

theorem getBytes_putBytes (s t : Bytes) : getBytes (putBytes s ++ t) = .ok (s, t) := by
  induction s with
  | nil =>
    unfold putBytes getBytes
    rfl
  | cons b s ih => simp [putBytes, getBytes, ih]

theorem beNat_digits (fuel n : Nat) (acc : Bytes) (h : n ≤ fuel) :
    beNat (digits fuel n acc) = n * 256 ^ acc.length + beNat acc := by
  induction fuel generalizing n acc with
  | zero =>
    obtain rfl : n = 0 := by omega
    simp [digits]
  | succ fuel ih =>
    unfold digits
    split_ifs with h0
    · simp [h0]
    · rw [ih _ _ (by omega), beNat_cons, BitVec.toNat_ofNat, List.length_cons, pow_succ]
      have hd : n = 256 * (n / 256) + n % 256 := by omega
      conv_rhs => rw [hd]
      norm_num
      ring

theorem beNat_digits_self (n : Nat) : beNat (digits n n []) = n := by
  simpa using beNat_digits n n [] le_rfl

theorem getNat_putNat (n : Nat) (t : Bytes) : getNat (putNat n ++ t) = .ok (n, t) := by
  simp only [getNat, putNat, getBytes_putBytes, bind, Except.bind, pure, Except.pure, beNat_digits_self]

theorem getInt_putInt (i : Int) (t : Bytes) : getInt (putInt i ++ t) = .ok (i, t) := by
  cases i with
  | ofNat m =>
    simp only [getInt, putInt, List.cons_append, getByte, bind, Except.bind, getNat_putNat, pure, Except.pure, if_true]
  | negSucc m =>
    simp only [getInt, putInt, List.cons_append, getByte, bind, Except.bind, getNat_putNat, pure, Except.pure]
    rfl

theorem getReal_putReal (x : RealArg) (t : Bytes) : getReal (putReal x ++ t) = .ok (x, t) := by
  cases x with
  | fin q =>
    simp only [getReal, putReal, List.cons_append, getByte, bind, Except.bind, List.append_assoc,
      getInt_putInt, getNat_putNat, pure, Except.pure, Rat.mkRat_self]
    rfl
  | nan => rfl
  | posInf => rfl
  | negInf => rfl

theorem getFrame_putFrame (f : Frame) (t : Bytes) : getFrame (putFrame f ++ t) = .ok (f, t) := by
  simp only [getFrame, putFrame, List.append_assoc, getBytes_putBytes, getNat_putNat, bind, Except.bind, pure,
    Except.pure]

theorem getKind_putKind (k : Kind) (t : Bytes) : getKind (putKind k ++ t) = .ok (k, t) := by
  cases k <;> rfl

theorem getCall_telFields (a : DecCall TelField) (t : Bytes) :
    getCall telFields (putCall telFields a ++ t) = .ok (a, t) := by
  rcases a with _ | a
  · rfl
  · cases a <;> rfl

theorem getCall_fwFields (a : DecCall FwField) (t : Bytes) :
    getCall fwFields (putCall fwFields a ++ t) = .ok (a, t) := by
  rcases a with _ | a
  · rfl
  · cases a <;> rfl

theorem getField_beBytes (n w : Nat) (v : BitVec w) (t : Bytes) (h : 256 ^ n = 2 ^ w) :
    getField n w (beBytes n v.toNat ++ t) = .ok (v, t) := by
  have hl : (beBytes n v.toNat).length = n := beBytes_length n _
  have e1 : (beBytes n v.toNat ++ t).take n = beBytes n v.toNat := by
    rw [List.take_append_of_le_length (by omega), List.take_of_length_le (by omega)]
  have e2 : (beBytes n v.toNat ++ t).drop n = t := by
    rw [List.drop_append_of_le_length (by omega), List.drop_of_length_le (by omega), List.nil_append]
  unfold getField
  rw [if_neg (by simp), e1, e2, beNat_beBytes, h, Nat.mod_eq_of_lt v.isLt, BitVec.ofNat_toNat, BitVec.setWidth_eq]

/-- A decoded instruction belongs to the format it was read in. -/
theorem decode_format {c : Config} {fmt : Format} {s : Bytes} {i : Instr} {u : Bytes}
    (h : decode c fmt s = .ok (i, u)) : i.format = fmt := by
  cases fmt with
  | sof =>
    cases s with
    | nil => cases h
    | cons b t =>
      simp only [decode, decodeSof] at h
      split_ifs at h <;> cases h <;> rfl
  | tidIn =>
    cases s with
    | nil => cases h
    | cons b t =>
      simp only [decode, decodeTidIn] at h
      split_ifs at h <;> cases h <;> rfl
  | tidOut =>
    cases s with
    | nil => cases h
    | cons b t =>
      simp only [decode, decodeTidOut] at h
      split_ifs at h
      all_goals first
        | (cases h; rfl)
        | (simp only [bind, Except.bind] at h
           split at h <;> cases h
           rfl)
  | op =>
    cases s with
    | nil => cases h
    | cons b t =>
      simp only [decode, decodeOp] at h
      split at h
      all_goals first
        | (cases h; rfl)
        | (cases h; done)
        | (simp only [bind, Except.bind] at h
           split at h
           · cases h
           · first
             | (cases h; rfl)
             | (split at h <;> cases h
                rfl))

end Sys2Proof
end

