-- ==== Sys2Proof/Laws/Factory.lean ====
section
/-!
SUPPORT. What CREATE_PACKET decides: its steps against the window's own lengths (`classify`).
-/

namespace Sys2Proof.Machine

/-- Where steps 1 to 4 of CREATE_PACKET leave the transient registers of a valid candidate. -/
structure Described (r : WorkRegs) (w : Bytes) : Prop where
  hdr   : r.hdr = headerSize w
  n     : r.n.toNat = declaredLength w
  total : r.total = totalLength w

/-- What a verdict says of the result of a window. -/
def Verdict.agrees (v : Verdict) (c : CrcParams) (reg : Registry) (w : Bytes) (r : WorkRegs) : Prop :=
  match v with
  | .needMore k => classify c reg w = .needMore k
  | .reject e => classify c reg w = .reject e ∧ e ≠ .unknownType
  | .valid =>
    Described r w ∧ 1 ≤ declaredLength w ∧ declaredLength w ≤ MAX_PAYLOAD ∧ totalLength w ≤ w.length ∧
      classify c reg w =
        match Registry.find reg (byteAt w (headerSize w)) with
        | none => .reject .unknownType
        | some k =>
          .packet { frame := { buf := w.take (totalLength w), payOff := headerSize w, payLen := declaredLength w },
                    kind := k }

theorem headerSize_cases (w : Bytes) : headerSize w = HDR_SMALL ∨ headerSize w = HDR_LARGE := by
  unfold headerSize; split <;> simp

theorem slice_two {w : Bytes} {i : Nat} (h : i + 2 ≤ w.length) : slice w i 2 = [byteAt w i, byteAt w (i + 1)] := by
  apply List.ext_getElem
  · rw [slice_length h]; rfl
  · intro j h1 h2
    have hj : j = 0 ∨ j = 1 := by simp at h2; omega
    rcases hj with rfl | rfl <;> simp [slice, byteAt, List.getD_eq_getElem?_getD] <;>
      rw [List.getElem?_eq_getElem (by omega)] <;> rfl

theorem examine_agrees (c : CrcParams) (reg : Registry) (sof : Byte) (lenb : Nat) (w : Bytes) (r : WorkRegs)
    (hs : byteAt w 0 = SOF_SMALL ∧ lenb = 1 ∨ byteAt w 0 = SOF_LARGE ∧ lenb = 2) :
    (examine c sof lenb w r).2.agrees c reg w (examine c sof lenb w r).1 := by
  have hne : SOF_LARGE ≠ SOF_SMALL := by decide
  have hh : 1 + lenb = headerSize w := by
    rcases hs with ⟨h, rfl⟩ | ⟨h, rfl⟩ <;> simp [headerSize, h, hne, HDR_SMALL, HDR_LARGE]
  have hg : ¬ (byteAt w 0 ≠ SOF_SMALL ∧ byteAt w 0 ≠ SOF_LARGE) := by
    rcases hs with ⟨h, _⟩ | ⟨h, _⟩ <;> simp [h]
  have hn : (if lenb = 1 then ((byteAt w 1).setWidth 16 : Half) else half (byteAt w 1) (byteAt w 2)).toNat =
      declaredLength w := by
    have hb := (byteAt w 1).isLt
    rcases hs with ⟨h, rfl⟩ | ⟨h, rfl⟩
    · simp [declaredLength, h]; omega
    · simp [declaredLength, h, hne, half_toNat]
  unfold examine
  dsimp only
  rw [hh]
  by_cases h1 : w.length < headerSize w
  · simp only [if_pos h1, Verdict.agrees, classify, if_neg hg]
  rw [if_neg h1]
  unfold examineLength
  dsimp only
  generalize hN : (if lenb = 1 then ((byteAt w 1).setWidth 16 : Half) else half (byteAt w 1) (byteAt w 2)) = N at *
  by_cases h2 : N.toNat > MAX_PAYLOAD
  · rw [if_pos h2]
    rw [hn] at h2
    simp only [Verdict.agrees, classify, if_neg hg, if_neg h1, if_pos h2]
    exact ⟨trivial, by decide⟩
  rw [if_neg h2]
  rw [hn] at h2
  have hz : N = 0 ↔ declaredLength w = 0 := by
    rw [← hn]; constructor
    · rintro rfl; rfl
    · intro h; exact BitVec.eq_of_toNat_eq (by simpa using h)
  by_cases h3 : N = 0
  · rw [if_pos h3]
    simp only [Verdict.agrees, classify, if_neg hg, if_neg h1, if_neg h2, if_pos (hz.mp h3)]
    exact ⟨trivial, by decide⟩
  rw [if_neg h3]
  have h3' : ¬ declaredLength w = 0 := fun h => h3 (hz.mpr h)
  unfold examineBody
  dsimp only
  rw [hn]
  have ht : headerSize w + declaredLength w + TRAILER_BYTES = totalLength w := rfl
  rw [ht]
  by_cases h4 : w.length < totalLength w
  · simp only [if_pos h4, Verdict.agrees, classify, if_neg hg, if_neg h1, if_neg h2, if_neg h3']
  rw [if_neg h4]
  by_cases h5 : byteAt w (totalLength w - 1) ≠ EOF_VAL
  · simp only [if_pos h5, Verdict.agrees, classify, if_neg hg, if_neg h1, if_neg h2, if_neg h3', if_neg h4]
    exact ⟨trivial, by decide⟩
  rw [if_neg h5]
  have hcrc : beNat (slice w (headerSize w + declaredLength w) CRC_BYTES) =
      (half (byteAt w (headerSize w + declaredLength w)) (byteAt w (headerSize w + declaredLength w + 1))).toNat := by
    rw [half_toNat_eq_beNat, CRC_BYTES, slice_two]
    have := ht
    dsimp only [TRAILER_BYTES] at this
    omega
  have hcc : crcFinish c (crcFold c c.init (slice w (headerSize w) (declaredLength w))) =
      crc16 c (declaredPayload w) := rfl
  rw [hcc]
  by_cases h6 : half (byteAt w (headerSize w + declaredLength w)) (byteAt w (headerSize w + declaredLength w + 1)) ≠
      crc16 c (declaredPayload w)
  · have h6' : beNat (slice w (headerSize w + declaredLength w) CRC_BYTES) ≠ (crc16 c (declaredPayload w)).toNat := by
      rw [hcrc]; exact fun h => h6 (BitVec.eq_of_toNat_eq h)
    simp only [if_pos h6, Verdict.agrees, classify, if_neg hg, if_neg h1, if_neg h2, if_neg h3', if_neg h4, if_neg h5,
      if_pos h6']
    exact ⟨trivial, by decide⟩
  rw [if_neg h6]
  have h6' : ¬ beNat (slice w (headerSize w + declaredLength w) CRC_BYTES) ≠ (crc16 c (declaredPayload w)).toNat := by
    rw [hcrc]; exact fun h => h6 (fun e => h (by rw [e]))
  simp only [Verdict.agrees, classify, if_neg hg, if_neg h1, if_neg h2, if_neg h3', if_neg h4, if_neg h5, if_neg h6']
  refine ⟨⟨by trivial, hn, by trivial⟩, by omega, by omega, by omega, by trivial⟩

/-- Step 5 on a described candidate: nothing in it can fault (R152). -/
theorem dispatch_ready (reg : Registry) (w : Bytes) (tid : Byte) (r : WorkRegs) (hh : r.hdr = HDR_SMALL ∨ r.hdr = HDR_LARGE)
    (hn : 1 ≤ r.n.toNat) (hm : r.n.toNat ≤ MAX_PAYLOAD) (ht : r.total = r.hdr + r.n.toNat + TRAILER_BYTES)
    (hl : r.total ≤ w.length) :
    dispatch reg w tid r = .ok ({ r with tid := tid },
      match Registry.find reg tid with
      | none => .reject .unknownType
      | some k => .packet ⟨⟨w.take r.total, r.hdr, r.n.toNat⟩, k⟩) := by
  unfold dispatch
  dsimp only
  cases Registry.find reg tid with
  | none => rfl
  | some k =>
    have : (w.take r.total).length = r.total := by simp [hl]
    dsimp only [HDR_SMALL, HDR_LARGE, MAX_PAYLOAD, TRAILER_BYTES] at *
    rw [extractFrame_of_range (by dsimp only [MIN_FRAME_SIZE]; omega) (by dsimp only [MAX_FRAME_SIZE]; omega)
      (by omega) (by omega)]
    rfl

/-- CREATE_PACKET on a non-empty window never faults and gives the window's one result. -/
theorem createPacket_ok (c : CrcParams) (reg : Registry) (w : Bytes) (r : WorkRegs) (h : w ≠ []) :
    ∃ r', createPacket c reg w r = .ok (r', classify c reg w) := by
  obtain ⟨b, t, rfl⟩ := List.exists_cons_of_ne_nil h
  have key : ∀ lenb, (byteAt (b :: t) 0 = SOF_SMALL ∧ lenb = 1 ∨ byteAt (b :: t) 0 = SOF_LARGE ∧ lenb = 2) →
      ∃ r', conclude reg (b :: t) (examine c b lenb (b :: t) r) = .ok (r', classify c reg (b :: t)) := by
    intro lenb hs
    have ha := examine_agrees c reg b lenb (b :: t) r hs
    generalize examine c b lenb (b :: t) r = q at ha
    obtain ⟨q, v⟩ := q
    cases v with
    | needMore k => exact ⟨q, by simp only [conclude]; rw [show classify c reg (b :: t) = _ from ha]⟩
    | reject e => exact ⟨q, by simp only [conclude]; rw [show classify c reg (b :: t) = _ from ha.1]⟩
    | valid =>
      obtain ⟨⟨hh, hn, ht⟩, h1, h2, h3, hc⟩ := ha
      refine ⟨{ q with tid := byteAt (b :: t) q.hdr }, ?_⟩
      simp only [conclude]
      simp only at hh hn ht
      rw [dispatch_ready reg _ _ q (hh ▸ headerSize_cases _) (hn ▸ h1) (hn ▸ h2)
        (by rw [ht, hh, hn]; rfl) (ht ▸ h3), hc, hh, hn, ht]
  unfold createPacket
  dsimp only
  by_cases h1 : b = SOF_SMALL
  · rw [if_pos h1]
    exact key 1 (.inl ⟨h1, rfl⟩)
  · rw [if_neg h1]
    by_cases h2 : b = SOF_LARGE
    · rw [if_pos h2]
      exact key 2 (.inr ⟨h2, rfl⟩)
    · rw [if_neg h2]
      refine ⟨{ r with sof := b }, ?_⟩
      rw [classify, byteAt_cons_zero, if_pos ⟨h1, h2⟩]

/-- The header of a frame with payload length `n`, as FRAME(P) writes it (R94). -/
def headerOf (n : Nat) : Bytes :=
  if n ≤ SMALL_MAX then [SOF_SMALL, BitVec.ofNat 8 n] else [SOF_LARGE, BitVec.ofNat 8 (n / 256), BitVec.ofNat 8 n]

theorem frameOf_eq (c : CrcParams) (p : Bytes) :
    frameOf c p = headerOf p.length ++ p ++ halfBytes (crc16 c p) ++ [EOF_VAL] := by
  unfold frameOf headerOf smallFrame largeFrame
  split_ifs <;> rfl

theorem frameOf_length (c : CrcParams) (p : Bytes) :
    (frameOf c p).length = (headerOf p.length).length + p.length + TRAILER_BYTES := by
  rw [frameOf_eq]; simp [TRAILER_BYTES]; omega

/-- What a header, a payload, two checksum bytes and an EOF are classified as, whatever follows them: with a checksum
that differs BAD_CRC, otherwise by the payload's type identifier. -/
theorem classify_laid_out (c : CrcParams) (reg : Registry) (p q t : Bytes) (hp : 1 ≤ p.length)
    (hm : p.length ≤ MAX_PAYLOAD) (hq : q.length = CRC_BYTES) :
    classify c reg (headerOf p.length ++ p ++ q ++ [EOF_VAL] ++ t) =
      if beNat q ≠ (crc16 c p).toNat then .reject .badCrc
      else
        match Registry.find reg (byteAt p 0) with
        | none => .reject .unknownType
        | some k =>
          .packet ⟨⟨headerOf p.length ++ p ++ q ++ [EOF_VAL], (headerOf p.length).length, p.length⟩, k⟩ := by
  generalize hw : headerOf p.length ++ p ++ q ++ [EOF_VAL] ++ t = w
  have e0 : (¬ (byteAt w 0 ≠ SOF_SMALL ∧ byteAt w 0 ≠ SOF_LARGE)) ∧ headerSize w = (headerOf p.length).length ∧
      declaredLength w = p.length := by
    subst hw
    dsimp only [MAX_PAYLOAD] at hm
    unfold headerOf
    split_ifs with h
    · dsimp only [SMALL_MAX] at h
      simp [byteAt, headerSize, declaredLength, HDR_SMALL, SOF_SMALL, SOF_LARGE]
      omega
    · dsimp only [SMALL_MAX] at h
      simp [byteAt, headerSize, declaredLength, HDR_LARGE, SOF_SMALL, SOF_LARGE]
      omega
  obtain ⟨hs, hh, hd⟩ := e0
  generalize headerOf p.length = h at hw hh ⊢
  have hc : h.length = 2 ∨ h.length = 3 := hh ▸ headerSize_cases w
  have ht : totalLength w = h.length + p.length + 3 := by rw [totalLength, hh, hd]; rfl
  dsimp only [MAX_PAYLOAD, CRC_BYTES] at hm hq
  have hl : w.length = h.length + p.length + 3 + t.length := by rw [← hw]; simp [hq]; omega
  have h1 : ¬ w.length < headerSize w := by omega
  have h2 : ¬ MAX_PAYLOAD < declaredLength w := by dsimp only [MAX_PAYLOAD]; omega
  have h3 : ¬ declaredLength w = 0 := by omega
  have h4 : ¬ w.length < totalLength w := by omega
  have h5 : ¬ byteAt w (totalLength w - 1) ≠ EOF_VAL := by
    have e : totalLength w - 1 = (h ++ p ++ q).length := by simp [hq]; omega
    rw [e, ← hw]
    simp [byteAt, List.append_assoc]
  have h6 : slice w (headerSize w + declaredLength w) CRC_BYTES = q := by
    have := slice_append_mid (h ++ p) q ([EOF_VAL] ++ t)
    rw [← List.append_assoc, hw, hq] at this
    rw [hh, hd, ← this]
    simp [CRC_BYTES]
  have h7 : declaredPayload w = p := by
    have := slice_append_mid h p (q ++ [EOF_VAL] ++ t)
    simp only [← List.append_assoc] at this
    rw [hw] at this
    rw [declaredPayload, hh, hd, this]
  have h8 : byteAt w (headerSize w) = byteAt p 0 := by
    obtain ⟨b, u, rfl⟩ := List.exists_cons_of_length_pos (show 0 < p.length by omega)
    rw [hh, ← hw]
    simp [byteAt, List.append_assoc]
  have h9 : w.take (totalLength w) = h ++ p ++ q ++ [EOF_VAL] := by
    have e : totalLength w = (h ++ p ++ q ++ [EOF_VAL]).length := by simp [hq]; omega
    rw [e, ← hw, List.take_left']
    rfl
  unfold classify
  rw [if_neg hs, if_neg h1, if_neg h2, if_neg h3, if_neg h4, if_neg h5, h6, h7, h8, h9, hh, hd]
  all_goals (split_ifs <;> rfl)

end Sys2Proof.Machine
end

