-- ==== Sys2Proof/Laws/Memory.lean ====
section
/-!
SUPPORT. The canonical form of the memory: it holds of every byte space, so every operation keeps it, and the
registry's holds after every registration.
-/

namespace Sys2Proof.Machine

theorem Memory.addresses (m : Memory) : m.cells.map Prod.fst = List.range m.length := by
  apply List.ext_getElem <;> simp [Memory.cells]

/-- A byte sequence is its own canonical form. -/
theorem Memory.wf_all (m : Memory) : m.wf = true := by
  simp [Memory.wf, Memory.addresses]

theorem append_memory_wf (chunk : Bytes) (s : State) : (append chunk s).rxbuf.wf = true := Memory.wf_all _

theorem release_memory_wf (s : State) : (release s).rxbuf.wf = true := Memory.wf_all _

theorem passEnd_memory_wf (s : State) : (passEnd s).rxbuf.wf = true := Memory.wf_all _

theorem memWrite_memory_wf {sp : Space} {m m' : Bytes} {a n v : Nat} (_ : memWrite sp m a n v = .ok m') :
    Memory.wf m' = true := Memory.wf_all m'

theorem reset_memory_wf : State.reset.rxbuf.wf = true := rfl

/-- Equal cells are equal memories. -/
theorem Memory.cells_inj {m n : Memory} (h : m.cells = n.cells) : m = n := by
  have e : ∀ m : Memory, m.cells.map Prod.snd = m := fun m => by apply List.ext_getElem <;> simp [Memory.cells]
  rw [← e m, h, e n]

theorem execRegisterType_registry_wf {tid : Byte} {k : Kind} {s t : State} (h : Registry.wf s.registry)
    (e : execRegisterType tid k s = .next t) : Registry.wf t.registry := by
  obtain ⟨_, e⟩ := unlessFaulted_next e
  split at e
  · cases e; exact h
  · split at e
    · cases e; exact h
    · cases e; exact Registry.wf_insert h tid k

theorem reset_registry_wf : Registry.wf State.reset.registry := List.Pairwise.nil

end Sys2Proof.Machine
end

