-- ==== Sys2Proof/Laws/PerInstr.lean ====
section
/-!
SUPPORT. The per-instruction family Opcode: the bytes of an instruction begin with the match byte of its row of
spec/opcode_table.json, whatever its operands and whatever the parameters.
-/

namespace Sys2Proof.Laws

/-- The match byte of an instruction's row (R96, R97): a SOF value, a type identifier, an operation number. The two
default rows match any byte, so theirs is the byte they carry. -/
def matchByte (c : Config) : Instr → Byte
  | .frameSmall => SOF_SMALL
  | .frameLarge => SOF_LARGE
  | .nonCandidate b => b
  | .requestFirmwareVersion => c.tidFwVersion
  | .firmwareVersion => c.tidFwVersion
  | .requestTelemetry => c.tidGetValues
  | .telemetry => c.tidGetValues
  | .setDutyCycle _ => c.tidSetDuty
  | .setCurrent _ => c.tidSetCurrent
  | .setCurrentBrake _ => c.tidSetCurrentBrake
  | .setRPM _ => c.tidSetRpm
  | .setPosition _ => c.tidSetPos
  | .setServoPosition _ => c.tidSetServoPos
  | .unknownType t => t
  | .registerType _ _ => 0x01
  | .setPacketHandler => 0x02
  | .setErrorHandler => 0x03
  | .start => 0x04
  | .stop => 0x05
  | .rxAppend _ => 0x06
  | .scanPass => 0x07
  | .createPacket _ => 0x08
  | .crc16 _ => 0x09
  | .buildFrame _ => 0x0A
  | .sealFrame _ => 0x0B
  | .extractFrame _ _ _ => 0x0C
  | .send _ => 0x0D
  | .loopTest => 0x0E
  | .encRequestFwVersion => 0x10
  | .encRequestTelemetry => 0x11
  | .encSetDutyCycle _ => 0x12
  | .encSetCurrent _ => 0x13
  | .encSetCurrentBrake _ => 0x14
  | .encSetRpm _ => 0x15
  | .encSetPosition _ => 0x16
  | .encSetServoPosition _ => 0x17
  | .decTelemetry _ _ => 0x18
  | .decFwVersion _ _ => 0x19

/-- The bytes of `i` begin with its row's match byte. -/
def Opcode.Statement (i : Instr) : Prop := ∀ c : Config, ∃ t, encode c i = matchByte c i :: t

theorem Opcode.frameSmall : Opcode.Statement (.frameSmall) := fun _ => ⟨_, rfl⟩
theorem Opcode.frameLarge : Opcode.Statement (.frameLarge) := fun _ => ⟨_, rfl⟩
theorem Opcode.nonCandidate (b : Byte) : Opcode.Statement (.nonCandidate b) := fun _ => ⟨_, rfl⟩
theorem Opcode.requestFirmwareVersion : Opcode.Statement (.requestFirmwareVersion) := fun _ => ⟨_, rfl⟩
theorem Opcode.firmwareVersion : Opcode.Statement (.firmwareVersion) := fun _ => ⟨_, rfl⟩
theorem Opcode.requestTelemetry : Opcode.Statement (.requestTelemetry) := fun _ => ⟨_, rfl⟩
theorem Opcode.telemetry : Opcode.Statement (.telemetry) := fun _ => ⟨_, rfl⟩
theorem Opcode.setDutyCycle (field : Quad) : Opcode.Statement (.setDutyCycle field) := fun _ => ⟨_, rfl⟩
theorem Opcode.setCurrent (field : Quad) : Opcode.Statement (.setCurrent field) := fun _ => ⟨_, rfl⟩
theorem Opcode.setCurrentBrake (field : Quad) : Opcode.Statement (.setCurrentBrake field) := fun _ => ⟨_, rfl⟩
theorem Opcode.setRPM (field : Quad) : Opcode.Statement (.setRPM field) := fun _ => ⟨_, rfl⟩
theorem Opcode.setPosition (field : Quad) : Opcode.Statement (.setPosition field) := fun _ => ⟨_, rfl⟩
theorem Opcode.setServoPosition (field : Half) : Opcode.Statement (.setServoPosition field) := fun _ => ⟨_, rfl⟩
theorem Opcode.unknownType (tid : Byte) : Opcode.Statement (.unknownType tid) := fun _ => ⟨_, rfl⟩
theorem Opcode.registerType (tid : Byte) (ctor : Kind) : Opcode.Statement (.registerType tid ctor) := fun _ => ⟨_, rfl⟩
theorem Opcode.setPacketHandler : Opcode.Statement (.setPacketHandler) := fun _ => ⟨_, rfl⟩
theorem Opcode.setErrorHandler : Opcode.Statement (.setErrorHandler) := fun _ => ⟨_, rfl⟩
theorem Opcode.start : Opcode.Statement (.start) := fun _ => ⟨_, rfl⟩
theorem Opcode.stop : Opcode.Statement (.stop) := fun _ => ⟨_, rfl⟩
theorem Opcode.rxAppend (chunk : Bytes) : Opcode.Statement (.rxAppend chunk) := fun _ => ⟨_, rfl⟩
theorem Opcode.scanPass : Opcode.Statement (.scanPass) := fun _ => ⟨_, rfl⟩
theorem Opcode.createPacket (w : Bytes) : Opcode.Statement (.createPacket w) := fun _ => ⟨_, rfl⟩
theorem Opcode.crc16 (bytes : Bytes) : Opcode.Statement (.crc16 bytes) := fun _ => ⟨_, rfl⟩
theorem Opcode.buildFrame (n : Int) : Opcode.Statement (.buildFrame n) := fun _ => ⟨_, rfl⟩
theorem Opcode.sealFrame (f : Frame) : Opcode.Statement (.sealFrame f) := fun _ => ⟨_, rfl⟩
theorem Opcode.extractFrame (raw : Bytes) (off n : Nat) : Opcode.Statement (.extractFrame raw off n) := fun _ => ⟨_, rfl⟩
theorem Opcode.send (f : Frame) : Opcode.Statement (.send f) := fun _ => ⟨_, rfl⟩
theorem Opcode.loopTest : Opcode.Statement (.loopTest) := fun _ => ⟨_, rfl⟩
theorem Opcode.encRequestFwVersion : Opcode.Statement (.encRequestFwVersion) := fun _ => ⟨_, rfl⟩
theorem Opcode.encRequestTelemetry : Opcode.Statement (.encRequestTelemetry) := fun _ => ⟨_, rfl⟩
theorem Opcode.encSetDutyCycle (x : RealArg) : Opcode.Statement (.encSetDutyCycle x) := fun _ => ⟨_, rfl⟩
theorem Opcode.encSetCurrent (x : RealArg) : Opcode.Statement (.encSetCurrent x) := fun _ => ⟨_, rfl⟩
theorem Opcode.encSetCurrentBrake (x : RealArg) : Opcode.Statement (.encSetCurrentBrake x) := fun _ => ⟨_, rfl⟩
theorem Opcode.encSetRpm (x : RealArg) : Opcode.Statement (.encSetRpm x) := fun _ => ⟨_, rfl⟩
theorem Opcode.encSetPosition (x : RealArg) : Opcode.Statement (.encSetPosition x) := fun _ => ⟨_, rfl⟩
theorem Opcode.encSetServoPosition (x : RealArg) : Opcode.Statement (.encSetServoPosition x) := fun _ => ⟨_, rfl⟩
theorem Opcode.decTelemetry (call : DecCall TelField) (f : Frame) : Opcode.Statement (.decTelemetry call f) := fun _ => ⟨_, rfl⟩
theorem Opcode.decFwVersion (call : DecCall FwField) (f : Frame) : Opcode.Statement (.decFwVersion call f) := fun _ => ⟨_, rfl⟩

end Sys2Proof.Laws
end

