-- ==== Sys2Proof/Laws/Real.lean ====
section
/-!
SUPPORT. What the operations on values of REAL compute (44_packet_types.md R203).
-/

namespace Sys2Proof.Machine

theorem pow2_eq (k : Int) : pow2 k = (2 : Rat) ^ k := by
  cases k with
  | ofNat n => simp [pow2, Rat.mkRat_eq_div]
  | negSucc n => simp [pow2, Rat.mkRat_eq_div, zpow_negSucc]

theorem pow2_pos (k : Int) : 0 < pow2 k := by
  rw [pow2_eq]
  positivity

/-- `floorLog2` is the exponent of the power of two at or below its argument. -/
theorem floorLog2_spec {n d : Nat} (hn : 0 < n) (hd : 0 < d) :
    (2 : Rat) ^ floorLog2 n d ≤ (n : Rat) / d ∧ (n : Rat) / d < (2 : Rat) ^ (floorLog2 n d + 1) := by
  have hd' : (0 : Rat) < d := by exact_mod_cast hd
  have n1 : (2 : Rat) ^ (n.log2 : Int) ≤ n := by
    rw [zpow_natCast]
    exact_mod_cast Nat.log2_self_le (by omega)
  have n2 : (n : Rat) < (2 : Rat) ^ ((n.log2 : Int) + 1) := by
    have : n < 2 ^ (n.log2 + 1) := Nat.lt_log2_self
    have h : ((n.log2 : Int) + 1) = ((n.log2 + 1 : Nat) : Int) := by push_cast; rfl
    rw [h, zpow_natCast]
    exact_mod_cast this
  have d1 : (2 : Rat) ^ (d.log2 : Int) ≤ d := by
    rw [zpow_natCast]
    exact_mod_cast Nat.log2_self_le (by omega)
  have d2 : (d : Rat) < (2 : Rat) ^ ((d.log2 : Int) + 1) := by
    have : d < 2 ^ (d.log2 + 1) := Nat.lt_log2_self
    have h : ((d.log2 : Int) + 1) = ((d.log2 + 1 : Nat) : Int) := by push_cast; rfl
    rw [h, zpow_natCast]
    exact_mod_cast this
  have two : (2 : Rat) ≠ 0 := by norm_num
  have upper : (n : Rat) / d < (2 : Rat) ^ ((n.log2 : Int) - d.log2 + 1) := by
    rw [div_lt_iff₀ hd']
    calc (n : Rat) < (2 : Rat) ^ ((n.log2 : Int) + 1) := n2
      _ = (2 : Rat) ^ ((n.log2 : Int) - d.log2 + 1) * (2 : Rat) ^ (d.log2 : Int) := by
        rw [← zpow_add₀ two]; congr 1; ring
      _ ≤ _ := by gcongr
  have lower : (2 : Rat) ^ ((n.log2 : Int) - d.log2 - 1) ≤ (n : Rat) / d := by
    rw [le_div_iff₀ hd']
    calc (2 : Rat) ^ ((n.log2 : Int) - d.log2 - 1) * d
        ≤ (2 : Rat) ^ ((n.log2 : Int) - d.log2 - 1) * (2 : Rat) ^ ((d.log2 : Int) + 1) := by gcongr
      _ = (2 : Rat) ^ (n.log2 : Int) := by rw [← zpow_add₀ two]; congr 1; ring
      _ ≤ n := n1
  unfold floorLog2
  simp only [pow2_eq, Rat.mkRat_eq_div, Int.cast_natCast]
  split_ifs with h
  · exact ⟨lower, by rw [sub_add_cancel]; exact h⟩
  · exact ⟨not_lt.mp h, upper⟩

/-- `nearestEven` is within one half of its argument. -/
theorem nearestEven_spec (n : Nat) {d : Nat} (hd : 0 < d) :
    2 * (d * nearestEven n d) ≤ 2 * n + d ∧ 2 * n ≤ 2 * (d * nearestEven n d) + d := by
  have h1 := Nat.div_add_mod n d
  have h2 := Nat.mod_lt n hd
  unfold nearestEven
  dsimp only
  split_ifs with h3 h4
  · constructor <;> omega
  · rw [Nat.mul_add]
    constructor <;> omega
  · rcases Nat.mod_two_eq_zero_or_one (n / d) with e | e <;> rw [e, Nat.mul_add] <;> constructor <;> omega

/-- A whole number is its own nearest one. -/
theorem nearestEven_one (n : Nat) : nearestEven n 1 = n := by
  simp [nearestEven, Nat.mod_one]

/-- Exact REAL leaves every number as it is. -/
@[simp] theorem toReal_exact (q : Rat) : toReal .exact q = .fin q := rfl

/-- FIX over the exact rationals. -/
theorem fix_exact (q : Rat) (scale w : Nat) : fix .exact (.fin q) scale w = BitVec.ofInt w (trunc (q * scale)) := rfl

/-- Where neither the argument nor the product is rounded, FIX of a binary REAL is FIX of the exact one. -/
theorem fix_of_exact_product {t : RealType} {q : Rat} {scale : Nat} (w : Nat) (h : toReal t q = .fin q)
    (g : toReal t (q * scale) = .fin (q * scale)) : fix t (.fin q) scale w = fix .exact (.fin q) scale w := by
  simp only [fix, readReal, h, realMul, g, toReal_exact]

end Sys2Proof.Machine
end

