-- ==== Sys2Proof/Laws/Scanner.lean ====
section
/-!
SUPPORT. What one turn of the scan loop does, said once.
-/

namespace Sys2Proof.Machine

/-- The packet of a classified window is the window's own first bytes, at least six of them (R128, R174). -/
theorem classify_packet {c : CrcParams} {reg : Registry} {w : Bytes} {p : Packet} (h : classify c reg w = .packet p) :
    p.frame = ⟨w.take (totalLength w), headerSize w, declaredLength w⟩ ∧ totalLength w ≤ w.length ∧
      1 ≤ declaredLength w ∧ declaredLength w ≤ MAX_PAYLOAD := by
  unfold classify at h
  split_ifs at h
  split at h
  · cases h
  · cases h
    exact ⟨rfl, by omega, by omega, by omega⟩

theorem classify_packet_length {c : CrcParams} {reg : Registry} {w : Bytes} {p : Packet}
    (h : classify c reg w = .packet p) :
    p.frame.buf.length = totalLength w ∧ p.frame.buf.length ≤ w.length ∧ MIN_RX_FRAME_SIZE ≤ p.frame.buf.length := by
  obtain ⟨e, h1, h2, h3⟩ := classify_packet h
  have hl : (w.take (totalLength w)).length = totalLength w := by simp [h1]
  rw [e, hl]
  refine ⟨rfl, h1, ?_⟩
  unfold totalLength
  rcases headerSize_cases w with e | e <;> rw [e] <;> dsimp only [HDR_SMALL, HDR_LARGE, TRAILER_BYTES, MIN_RX_FRAME_SIZE]
    <;> omega

/-- Everything one turn of the scan loop can do. -/
theorem scanTurn_cases (s : State) :
    (window s = [] ∧ scanTurn s = .ok (.leave s)) ∨
    ∃ b t, window s = b :: t ∧
      ((b ≠ SOF_SMALL ∧ b ≠ SOF_LARGE ∧ scanTurn s = .ok (.again (skipByte s))) ∨
        (¬ (b ≠ SOF_SMALL ∧ b ≠ SOF_LARGE) ∧
          ∃ r, scanTurn s =
            .ok (settle (classify s.cfg.crc s.registry (window s)) (freeze { s with work := r })))) := by
  cases h : window s with
  | nil => exact .inl ⟨rfl, by simp [scanTurn, h]⟩
  | cons b t =>
    refine .inr ⟨b, t, rfl, ?_⟩
    by_cases hb : b ≠ SOF_SMALL ∧ b ≠ SOF_LARGE
    · refine .inl ⟨hb.1, hb.2, ?_⟩
      simp only [scanTurn, h, if_pos hb]
    · obtain ⟨r, hr⟩ := createPacket_ok s.cfg.crc s.registry (b :: t) s.work (by simp)
      refine .inr ⟨hb, r, ?_⟩
      simp only [scanTurn, h, if_neg hb, hr, bind, Except.bind, pure, Except.pure]

theorem window_length (s : State) : (window s).length = s.rxbuf.length - s.pos := by simp [window]

theorem pos_lt_of_window {s : State} {b : Byte} {t : Bytes} (h : window s = b :: t) : s.pos < s.rxbuf.length := by
  have := window_length s
  rw [h, List.length_cons] at this
  omega

/-- Moving POS forward drops that many bytes of the window. -/
theorem window_advance {s s' : State} (n : Nat) (hb : s'.rxbuf = s.rxbuf) (hp : s'.pos = s.pos + n) :
    window s' = (window s).drop n := by
  rw [window, window, hb, hp, List.drop_drop]

/-- The state after a packet whose handler returns (R174). -/
def afterPacket (p : Packet) (s : State) : State :=
  { emit p s with pos := s.pos + p.frame.buf.length, subState := .search }

/-- The state in a handler that does not return (93 U8). -/
def inHandlerOf (p : Packet) (s : State) : State := { emit p s with subState := .inHandler }

/-- What every turn keeps holds of the state the loop ends in: with enough fuel the loop always ends, at the buffer's
end, at an incomplete candidate or in a handler that does not return. -/
theorem scanLoop_induct {P Q : State → Prop}
    (stop : ∀ s, P s → window s = [] → Q (passEnd s))
    (skip : ∀ s b t, P s → window s = b :: t → b ≠ SOF_SMALL → b ≠ SOF_LARGE → P (skipByte s))
    (packet : ∀ s r p, P s → classify s.cfg.crc s.registry (window s) = .packet p → s.handlerReturns = true →
      P (afterPacket p (freeze { s with work := r })))
    (hang : ∀ s r p, P s → classify s.cfg.crc s.registry (window s) = .packet p → s.handlerReturns = false →
      Q (inHandlerOf p (freeze { s with work := r })))
    (wait : ∀ s r b t k, P s → window s = b :: t → ¬ (b ≠ SOF_SMALL ∧ b ≠ SOF_LARGE) →
      classify s.cfg.crc s.registry (window s) = .needMore k → Q (passEnd (freeze { s with work := r })))
    (reject : ∀ s r b t e, P s → window s = b :: t → ¬ (b ≠ SOF_SMALL ∧ b ≠ SOF_LARGE) →
      classify s.cfg.crc s.registry (window s) = .reject e → P (rejectHere e (freeze { s with work := r }))) :
    ∀ n s, P s → (window s).length < n → ∃ t, scanLoop n s = .ok t ∧ Q t := by
  intro n
  induction n with
  | zero => intro s _ h; omega
  | succ n ih =>
    intro s hP hn
    rcases scanTurn_cases s with ⟨hw, ht⟩ | ⟨b, t, hw, ⟨h1, h2, ht⟩ | ⟨hb, r, ht⟩⟩
    · exact ⟨passEnd s, by simp only [scanLoop, ht, bind, Except.bind, pure, Except.pure], stop s hP hw⟩
    · have hl : (window (skipByte s)).length < n := by
        rw [window_advance (s := s) (s' := skipByte s) 1 rfl rfl, List.length_drop, hw]
        rw [hw] at hn
        simp only [List.length_cons] at hn ⊢
        omega
      obtain ⟨u, e, hu⟩ := ih _ (skip s b t hP hw h1 h2) hl
      exact ⟨u, by simp only [scanLoop, ht, bind, Except.bind, e], hu⟩
    · rcases settle_cases (classify s.cfg.crc s.registry (window s)) (freeze { s with work := r }) with
        ⟨p, e, hr, e2⟩ | ⟨p, e, hr, e2⟩ | ⟨k, e, e2⟩ | ⟨k, e, e2⟩ <;> rw [e2] at ht
      · have h3 := (classify_packet_length e).2
        have hl : (window (afterPacket p (freeze { s with work := r }))).length < n := by
          rw [window_advance (s := s) (s' := afterPacket p (freeze { s with work := r })) p.frame.buf.length rfl rfl,
            List.length_drop]
          dsimp only [MIN_RX_FRAME_SIZE] at h3
          omega
        obtain ⟨u, e', hu⟩ := ih _ (packet s r p hP e hr) hl
        refine ⟨u, ?_, hu⟩
        simp only [scanLoop, ht, bind, Except.bind]
        exact e'
      · refine ⟨_, ?_, hang s r p hP e hr⟩
        simp only [scanLoop, ht, bind, Except.bind, pure, Except.pure]
        rfl
      · refine ⟨_, ?_, wait s r b t k hP hw hb e⟩
        simp only [scanLoop, ht, bind, Except.bind, pure, Except.pure]
      · have hl : (window (rejectHere k (freeze { s with work := r }))).length < n := by
          rw [window_advance (s := s) (s' := rejectHere k (freeze { s with work := r })) 1 rfl rfl,
            List.length_drop, hw]
          rw [hw] at hn
          simp only [List.length_cons] at hn ⊢
          omega
        obtain ⟨u, e', hu⟩ := ih _ (reject s r b t k hP hw hb e) hl
        exact ⟨u, by simp only [scanLoop, ht, bind, Except.bind, e'], hu⟩

/-- A pass that gives a next state gives one that every turn's property holds of. -/
theorem execScanPass_cases {s t : State} (h : execScanPass s = .next t) :
    s.faulted = none ∧ s.scanState = .armed ∧
      ((s.lock ≠ .free ∧ t = s) ∨
        (s.lock = .free ∧ ∃ r, scanLoop (s.rxbuf.length + 1) (passBegin s) = r ∧ orRaise s r id = .next t)) := by
  obtain ⟨hf, h⟩ := unlessFaulted_next h
  split_ifs at h with h1 h2
  · exact ⟨hf, by simpa using h1, .inl ⟨h2, by simpa using h.symm⟩⟩
  · exact ⟨hf, by simpa using h1, .inr ⟨by simpa using h2, _, rfl, h⟩⟩

theorem passBegin_window_length (s : State) : (window (passBegin s)).length < s.rxbuf.length + 1 := by
  simp [window, passBegin]

end Sys2Proof.Machine
end

