-- ==== Sys2Proof/Laws/Step.lean ====
section
/-!
SUPPORT. Where a step comes from, said once, and runs as chains of steps.
-/

namespace Sys2Proof.Machine

/-! ### The next record -/

/-- Outside a join no record waits. -/
theorem held_of_no_join {s : State} (q : Slot) (h : s.joinWait = false) : held s q = false := by
  unfold held
  split <;> simp [h]

/-- Which records a join holds: those that wait for it. -/
theorem held_eq {s : State} {q : Slot} {i : Instr} (h : decodeSlot s.cfg q = .ok i) :
    held s q = (s.joinWait && i.waitsForJoin) := by
  simp only [held, h]

theorem nextRecord_head {s : State} {q : Slot} {rest : List Slot} (h : held s q = false) :
    nextRecord s (q :: rest) = some (q, rest) := by
  simp [nextRecord, h]

/-- The records that wait in front of a record that does not are passed over and kept. -/
theorem nextRecord_append {s : State} {a rest : List Slot} {q : Slot} (ha : ∀ x ∈ a, held s x = true)
    (h : held s q = false) : nextRecord s (a ++ q :: rest) = some (q, a ++ rest) := by
  induction a with
  | nil => exact nextRecord_head h
  | cons x a ih =>
    have hx := ha x List.mem_cons_self
    have := ih fun y hy => ha y (List.mem_cons_of_mem _ hy)
    simp only [List.cons_append, nextRecord, hx, if_true, this]

theorem nextRecord_all_held {s : State} {l : List Slot} (h : ∀ x ∈ l, held s x = true) : nextRecord s l = none := by
  induction l with
  | nil => rfl
  | cons x l ih =>
    have := ih fun y hy => h y (List.mem_cons_of_mem _ hy)
    simp only [nextRecord, h x List.mem_cons_self, if_true, this]

/-- Everything the next record can be: the first one that does not wait, or none where all wait. -/
theorem nextRecord_cases (s : State) (l : List Slot) :
    (nextRecord s l = none ∧ ∀ x ∈ l, held s x = true) ∨
    ∃ a q rest, l = a ++ q :: rest ∧ (∀ x ∈ a, held s x = true) ∧ held s q = false ∧
      nextRecord s l = some (q, a ++ rest) := by
  induction l with
  | nil => exact .inl ⟨rfl, by simp⟩
  | cons x l ih =>
    by_cases hx : held s x = true
    · rcases ih with ⟨e, h⟩ | ⟨a, q, rest, rfl, ha, hq, e⟩
      · refine .inl ⟨by simp only [nextRecord, hx, if_true, e], ?_⟩
        intro y hy
        rcases List.mem_cons.mp hy with rfl | hy
        · exact hx
        · exact h y hy
      · refine .inr ⟨x :: a, q, rest, rfl, ?_, hq, by simp only [nextRecord, hx, if_true, e]; rfl⟩
        intro y hy
        rcases List.mem_cons.mp hy with rfl | hy
        · exact hx
        · exact ha y hy
    · exact .inr ⟨[], x, l, rfl, by simp, by simpa using hx, nextRecord_head (by simpa using hx)⟩

/-! ### The step -/

/-- Everything a step can be: a move of a pass under way, the next record, or the polling thread's move. -/
theorem step_cases {s t : State} (h : step s = .next t) :
    s.faulted = none ∧
      ((scanning s = true ∧ scanMove s = .next t) ∨
        (scanning s = false ∧ ∃ q rest i u, nextRecord s s.pending = some (q, rest) ∧
          decode s.cfg (if q.command then .tidOut else .op) q.bytes = .ok (i, u) ∧
          exec i { s with pending := rest } = .next t) ∨
        (scanning s = false ∧ nextRecord s s.pending = none ∧ pollMove s = .next t)) := by
  obtain ⟨hf, h⟩ := unlessFaulted_next h
  refine ⟨hf, ?_⟩
  unfold liveStep at h
  split_ifs at h with hs
  · exact .inl ⟨hs, h⟩
  · have hs' : scanning s = false := by simpa using hs
    split at h
    · rename_i q rest hp
      split at h
      · rename_i i hi
        unfold decodeSlot at hi
        split at hi
        · rename_i hd
          cases hi
          exact .inr (.inl ⟨hs', q, rest, _, _, hp, hd, h⟩)
        · cases hi
      · cases h
    · rename_i hp
      exact .inr (.inr ⟨hs', hp, h⟩)

/-- One step and then a run. -/
theorem run_succ {k : Nat} {s u : State} (h : step s = .next u) :
    Sys2Proof.core.run (k + 1) s = Sys2Proof.core.run k u := by
  have h' : Sys2Proof.core.step s = .next u := h
  simp only [Host.Core.run, h']

/-- A run and then a run. -/
theorem run_trans {j k : Nat} {s u t : State} (h : Sys2Proof.core.run j s = .next u)
    (g : Sys2Proof.core.run k u = .next t) : Sys2Proof.core.run (j + k) s = .next t := by
  induction j generalizing s with
  | zero =>
    cases h
    rwa [Nat.zero_add]
  | succ j ih =>
    simp only [Host.Core.run] at h
    split at h
    · rename_i v hv
      rw [show j + 1 + k = (j + k) + 1 by omega, run_succ hv]
      exact ih h
    · cases h
    · cases h

end Sys2Proof.Machine
end

