-- ==== Sys2Proof/Tests/Slice0.lean ====
section
/-!
SUPPORT. The model's own tests. Expected values come from the spec: 95_test_vectors.md by its vector names, or a rule
worked by hand. Three parts: well-formedness and decoding, one-step tests of the instructions, and a state and
operands that meet the hypotheses of each statement of Certificates/Slice0/Obligations.lean.
-/

open Sys2Proof Sys2Proof.Machine

namespace Sys2Proof.Tests

-- one theorem at a time: many kernel evaluations at once want too many threads
set_option Elab.async false

/-! ### Helpers -/

/-- The state of a next outcome. -/
def after : Out → Option State
  | .next s => some s
  | .fault _ => none
  | .refused _ => none

/-- What the caller of a completed operation gets. -/
def result (o : Out) : Option CallResult := (after o).map State.result

/-- The frame bytes of a packet result. -/
def packetBytes (o : Out) : Option Bytes :=
  match result o with
  | some (.packet p) => some p.frame.buf
  | some _ => none
  | none => none

/-- The result class of CREATE_PACKET on a window from the booted state. -/
def created (o : Out) : Option CreateResult :=
  match result o with
  | some (.created r) => some r
  | some _ => none
  | none => none

/-- The frames A and B of 95_test_vectors.md. -/
def frameA : Bytes := [0x02, 0x01, 0x00, 0x00, 0x00, 0x03]
def frameB : Bytes := [0x02, 0x01, 0x04, 0x40, 0x84, 0x03]

/-- The state after "Boot" of 95_test_vectors.md section 8. -/
def booted : State :=
  { State.reset with
    registry := [(0, .firmwareVersion), (4, .telemetry)], regFrozen := true, pktHandler := .set, run := true,
    scanState := .idle, result := .ok }

/-- A booted machine whose sleep has ended with `b` received. -/
def armed (b : Bytes) : State := { booted with scanState := .armed, rxbuf := b }

/-- A booted machine inside a pass over `b`, at `p`. -/
def passing (b : Bytes) (p : Nat) : State :=
  { booted with scanState := .inPass, lock := .heldScan, rxbuf := b, pos := p }

/-- The transient registers after steps 1 to 4 of CREATE_PACKET on the frame B. -/
def workB : WorkRegs :=
  { WorkRegs.reset with
    sof := 0x02, lenb := 1, hdr := 2, n := 1, total := 6, crcRx := 0x4084, crcCalc := 0x4084, crcAcc := 0x4084 }

/-- A pass over `b` at the type lookup of the candidate B at 0. -/
def lookingUp (b : Bytes) : State := { passing b 0 with work := workB, subState := .typeLookup }

/-- A STOP in its join: its request has been made and the loop has not ended. -/
def joining : State := { booted with run := false, joinWait := true }

/-- The frame of S6. -/
def frameS6 : Frame := ⟨[0x02, 0x03, 0x04, 0x00, 0x96, 0x3F, 0xBF, 0x03], 2, 3⟩

/-- The packet B as a frame value. -/
def valueB : Frame := ⟨frameB, 2, 1⟩

/-- A pass stuck in the handler call for its first packet, which does not return. -/
def stuck : State :=
  { passing frameB 0 with subState := .inHandler, handlerLeft := some 0, pktOut := [⟨valueB, .telemetry⟩] }

/-- The firmware-version frame of V7.3. -/
def frameFw : Frame :=
  ⟨[0x02, 0x15, 0x00, 0x05, 0x02, 0x34, 0x31, 0x30, 0x00, 0x01, 0x02, 0x03, 0x04, 0x05, 0x06, 0x07, 0x08, 0x09, 0x0A,
    0x0B, 0x0C, 0x00, 0x03, 0xD3, 0x7B, 0x03], 2, 21⟩

/-- The payload of V7.1, in two pieces. -/
def telHead : Bytes :=
  [0x04, 0x00, 0x96, 0x01, 0x2C, 0x00, 0x00, 0x04, 0xD2, 0xFF, 0xFF, 0xFF, 0x9C, 0x00, 0x00, 0x00, 0x00, 0x00, 0x00,
    0x00, 0x00, 0x01, 0xF4, 0x00, 0x00, 0x0B, 0xB8, 0x00, 0xF0, 0x00, 0x00, 0x30, 0x39, 0x00, 0x00, 0x00, 0x00]
def telTail : Bytes :=
  [0x00, 0x01, 0xE2, 0x40, 0x00, 0x00, 0x00, 0x64, 0xFF, 0xFF, 0xFF, 0xFF, 0x00, 0x00, 0x03, 0xE8, 0x00, 0x05, 0x5D,
    0x4A, 0x80, 0x2A, 0x00, 0x97, 0x00, 0x98, 0x00, 0x99, 0xFF, 0xFF, 0xFC, 0x18, 0x00, 0x00, 0x2E, 0xE0]

/-- The telemetry frame of V7.1. -/
def frameTel : Frame := ⟨[0x02, 0x49] ++ telHead ++ telTail ++ [0x6F, 0x4C, 0x03], 2, 73⟩

/-- What a telemetry accessor gives on the frame of V7.1. -/
def tel (a : TelField) : Option CallResult := result (exec (.decTelemetry (.access a) frameTel) booted)

/-- What a firmware accessor gives on the frame of V7.3. -/
def fw (a : FwField) : Option CallResult := result (exec (.decFwVersion (.access a) frameFw) booted)

/-! ### Well-formedness: an ill-formed term for each check -/

theorem test_wf_nonCandidate :
    ¬ (Instr.nonCandidate 0x02).wf defaultConfig ∧ ¬ (Instr.nonCandidate 0x03).wf defaultConfig ∧
      (Instr.nonCandidate 0x04).wf defaultConfig := by decide +kernel

theorem test_wf_unknownType :
    ¬ (Instr.unknownType 0x00).wf defaultConfig ∧ ¬ (Instr.unknownType 0x04).wf defaultConfig ∧
      (Instr.unknownType 0x05).wf defaultConfig := by decide +kernel

/-- Too short, too long, no header byte before the payload, no trailer byte after it (R40). -/
theorem test_wf_frame :
    ¬ Frame.wf ⟨[0x02, 0x00, 0x00, 0x00], 1, 1⟩ ∧ ¬ Frame.wf ⟨List.replicate 1031 0, 2, 1⟩ ∧
      ¬ Frame.wf ⟨frameB, 0, 1⟩ ∧ ¬ Frame.wf ⟨frameB, 2, 4⟩ ∧ Frame.wf ⟨frameB, 2, 3⟩ := by decide +kernel

theorem test_wf_frame_operands :
    ¬ (Instr.sealFrame ⟨frameB, 0, 1⟩).wf defaultConfig ∧ ¬ (Instr.send ⟨frameB, 2, 4⟩).wf defaultConfig ∧
      ¬ (Instr.decTelemetry .construct ⟨frameB, 0, 1⟩).wf defaultConfig ∧
      ¬ (Instr.decFwVersion .construct ⟨frameB, 2, 4⟩).wf defaultConfig := by decide +kernel

/-- A payload that does not start after a header, and trailing bytes that are not three (R40). -/
theorem test_wf_laid_out :
    ¬ Frame.laidOut ⟨frameB, 1, 1⟩ ∧ ¬ Frame.laidOut ⟨frameB, 2, 2⟩ ∧ Frame.laidOut valueB := by decide +kernel

/-- Two identifiers alike, and two registry entries of one identifier (R7). -/
theorem test_wf_config :
    ¬ Config.wf { defaultConfig with tidSetRpm := 0x05 } ∧
      ¬ Config.wf { defaultConfig with registryInit := [(4, .telemetry), (4, .firmwareVersion)] } ∧
      Config.wf defaultConfig := by decide +kernel

/-! ### Decoding: words written out from the spec's encodings -/

/-- SOF rows (R81, R82, R90): byte 0 of a window. -/
theorem test_decode_sof_rows :
    decode defaultConfig .sof frameB = .ok (.frameSmall, [0x01, 0x04, 0x40, 0x84, 0x03]) ∧
      decode defaultConfig .sof [0x03, 0x00, 0x01] = .ok (.frameLarge, [0x00, 0x01]) ∧
      decode defaultConfig .sof [0x55] = .ok (.nonCandidate 0x55, []) := by decide +kernel

/-- Inbound TID rows (R89, R92): payload byte 0. -/
theorem test_decode_inbound_rows :
    decode defaultConfig .tidIn [0x00, 0x05] = .ok (.firmwareVersion, [0x05]) ∧
      decode defaultConfig .tidIn [0x04, 0x00] = .ok (.telemetry, [0x00]) ∧
      decode defaultConfig .tidIn [0x09] = .ok (.unknownType 0x09, []) := by decide +kernel

/-- Outbound TID rows (R89, R204): the payloads of section 6's frames. -/
theorem test_decode_outbound_rows :
    decode defaultConfig .tidOut [0x00] = .ok (.requestFirmwareVersion, []) ∧
      decode defaultConfig .tidOut [0x04] = .ok (.requestTelemetry, []) ∧
      decode defaultConfig .tidOut [0x05, 0xFF, 0xFF, 0x3C, 0xB0] = .ok (.setDutyCycle 0xFFFF3CB0, []) ∧
      decode defaultConfig .tidOut [0x06, 0x00, 0x00, 0x05, 0xDC] = .ok (.setCurrent 0x05DC, []) ∧
      decode defaultConfig .tidOut [0x07, 0x00, 0x00, 0x07, 0xD0] = .ok (.setCurrentBrake 0x07D0, []) ∧
      decode defaultConfig .tidOut [0x08, 0xFF, 0xFF, 0xF4, 0x48] = .ok (.setRPM 0xFFFFF448, []) ∧
      decode defaultConfig .tidOut [0x09, 0x05, 0x5D, 0x4A, 0x80] = .ok (.setPosition 0x055D4A80, []) ∧
      decode defaultConfig .tidOut [0x0C, 0x01, 0xF4] = .ok (.setServoPosition 0x01F4, []) := by decide +kernel

/-- OP rows without arguments: R96's operation number alone. -/
theorem test_decode_plain_operations :
    decode defaultConfig .op [0x02] = .ok (.setPacketHandler, []) ∧
      decode defaultConfig .op [0x03] = .ok (.setErrorHandler, []) ∧
      decode defaultConfig .op [0x04] = .ok (.start, []) ∧ decode defaultConfig .op [0x05] = .ok (.stop, []) ∧
      decode defaultConfig .op [0x07] = .ok (.scanPass, []) ∧ decode defaultConfig .op [0x0E] = .ok (.loopTest, []) ∧
      decode defaultConfig .op [0x10] = .ok (.encRequestFwVersion, []) ∧
      decode defaultConfig .op [0x11] = .ok (.encRequestTelemetry, []) := by decide +kernel

/-- OP rows with byte-sequence, integer and frame arguments: R96's number, then the argument list in the model's
spelling (log entry 2). -/
theorem test_decode_byte_operations :
    decode defaultConfig .op [0x01, 0x04, 0x01] = .ok (.registerType 0x04 .telemetry, []) ∧
      decode defaultConfig .op [0x06, 1, 0xFF, 1, 0x02, 0] = .ok (.rxAppend [0xFF, 0x02], []) ∧
      decode defaultConfig .op [0x08, 1, 0x02, 0] = .ok (.createPacket [0x02], []) ∧
      decode defaultConfig .op [0x09, 1, 0x80, 0] = .ok (.crc16 [0x80], []) ∧
      decode defaultConfig .op [0x0A, 0, 1, 0x04, 1, 0x00, 0] = .ok (.buildFrame 1024, []) ∧
      decode defaultConfig .op [0x0A, 1, 0] = .ok (.buildFrame (-1), []) ∧
      decode defaultConfig .op [0x0B, 1, 0x02, 0, 1, 2, 0, 1, 1, 0] = .ok (.sealFrame ⟨[0x02], 2, 1⟩, []) ∧
      decode defaultConfig .op [0x0C, 1, 0x02, 0, 1, 2, 0, 0] = .ok (.extractFrame [0x02] 2 0, []) ∧
      decode defaultConfig .op [0x0D, 1, 0x02, 0, 0, 0] = .ok (.send ⟨[0x02], 0, 0⟩, []) := by decide +kernel

/-- OP rows with real arguments (1/2, -3/1, no number) and with an accessor. -/
theorem test_decode_codec_operations :
    decode defaultConfig .op [0x12, 0, 0, 1, 1, 0, 1, 2, 0] = .ok (.encSetDutyCycle (.fin (1 / 2)), []) ∧
      decode defaultConfig .op [0x13, 0, 1, 1, 2, 0, 1, 1, 0] = .ok (.encSetCurrent (.fin (-3)), []) ∧
      decode defaultConfig .op [0x14, 1] = .ok (.encSetCurrentBrake .nan, []) ∧
      decode defaultConfig .op [0x15, 2] = .ok (.encSetRpm .posInf, []) ∧
      decode defaultConfig .op [0x16, 3] = .ok (.encSetPosition .negInf, []) ∧
      decode defaultConfig .op [0x17, 0, 0, 0, 1, 1, 0] = .ok (.encSetServoPosition (.fin 0), []) ∧
      decode defaultConfig .op [0x18, 1, 0, 0, 0] = .ok (.decTelemetry (.access .tempFet) ⟨[], 0, 0⟩, []) ∧
      decode defaultConfig .op [0x18, 0, 0, 0, 0] = .ok (.decTelemetry .construct ⟨[], 0, 0⟩, []) ∧
      decode defaultConfig .op [0x19, 6, 0, 0, 0] = .ok (.decFwVersion (.access .deviceVersion) ⟨[], 0, 0⟩, []) := by
  decide +kernel

/-- Bytes that are no instruction are refused by name: R95's closed set, and records that end early. -/
theorem test_decode_refuses :
    decode defaultConfig .op [0x0F] = .error (.unknownOp 0x0F) ∧
      decode defaultConfig .op [] = .error .empty ∧
      decode defaultConfig .op [0x06, 1] = .error .truncated ∧
      decode defaultConfig .op [0x06, 2] = .error (.badMark 2) ∧
      decode defaultConfig .op [0x01, 0x04, 0x0A] = .error (.badCtor 0x0A) ∧
      decode defaultConfig .op [0x0A, 2, 0] = .error (.badSign 2) ∧
      decode defaultConfig .op [0x12, 4] = .error (.badReal 4) ∧
      decode defaultConfig .op [0x18, 0x16] = .error (.badAccessor 0x16) ∧
      decode defaultConfig .tidOut [0x0C, 0x01] = .error .truncated ∧
      decode defaultConfig .tidOut [0xFF] = .error (.unknownCommand 0xFF) := by decide +kernel

/-- A table word is read and is the first thing a step runs from reset. -/
theorem test_table_words :
    decodeTableWord 8 0x0E = some .loopTest ∧ decodeTableWord 8 0x05 = some .stop ∧
      decodeTableWord 8 0x00 = some .requestFirmwareVersion ∧ decodeTableWord 8 0xFF = some (.nonCandidate 0xFF) ∧
      (after (step (State.reset.withFetchWord 8 0xFF))).map State.pos = some 1 ∧
      result (step (State.reset.withFetchWord 8 0x09)) = some (.crc 0x0000) := by decide +kernel

/-! ### The wire rows, one step each (section 5) -/

/-- V5.8 at its candidate: the pass ends and the window is kept. -/
theorem test_frameSmall_needs_more :
    (after (exec .frameSmall (passing [0x02, 0x01, 0x04, 0x40] 0))).map (fun t => (t.rxbuf, t.scanState, t.lock)) =
      some ([0x02, 0x01, 0x04, 0x40], .idle, .free) := by decide +kernel

/-- V4.3: EOF is tested before CRC; one byte is skipped. -/
theorem test_frameSmall_rejects :
    (after (exec .frameSmall (passing [0x02, 0x01, 0x04, 0x41, 0x84, 0x02] 0))).map (fun t => (t.rejLog, t.pos)) =
      some ([.badEof], 1) := by decide +kernel

/-- V4.1: 1025 is too large. -/
theorem test_frameLarge_too_large :
    (after (exec .frameLarge (passing [0x03, 0x04, 0x01] 0))).map (fun t => (t.rejLog, t.pos)) =
      some ([.lenTooLarge], 1) := by decide +kernel

/-- V4.1: a LARGE header with a short payload goes on to its type. -/
theorem test_frameLarge_short_payload :
    (after (exec .frameLarge (passing [0x03, 0x00, 0x01, 0x04, 0x40, 0x84, 0x03] 0))).map
        (fun t => (t.subState, t.work.hdr, t.work.total)) =
      some (.typeLookup, 3, 7) := by decide +kernel

theorem test_nonCandidate_skips :
    (after (exec (.nonCandidate 0xFF) (passing (0xFF :: frameA) 0))).map State.pos = some 1 := by decide +kernel

/-- The candidate B is delivered and passed over (R152, R174). -/
theorem test_telemetry_dispatches :
    (after (exec .telemetry (lookingUp frameB))).map (fun t => (t.pktOut, t.pos, t.subState)) =
      some ([⟨valueB, .telemetry⟩], 6, .search) := by decide +kernel

/-- The registry decides, not the row: with no entry for 0 the candidate is rejected (R151). -/
theorem test_firmwareVersion_unregistered :
    (after (exec .firmwareVersion { lookingUp frameB with registry := [] })).map (fun t => (t.rejLog, t.pos)) =
      some ([.unknownType], 1) := by decide +kernel

theorem test_unknownType_rejected :
    (after (exec (.unknownType 0x09) (lookingUp frameB))).map (fun t => (t.rejLog, t.pktOut, t.pos)) =
      some ([.unknownType], [], 1) := by decide +kernel

/-- "Every rule of this file holds for any registry" (R143): a registered 9 is dispatched. -/
theorem test_unknownType_registered :
    (after (exec (.unknownType 0x09) { lookingUp frameB with registry := [(9, .setPosition)] })).map
        (fun t => t.pktOut.map Packet.kind) =
      some [.setPosition] := by decide +kernel

/-! ### The outbound rows and the encoders (section 6) -/

theorem test_outbound_rows :
    packetBytes (exec .requestFirmwareVersion booted) = some frameA ∧
      packetBytes (exec .requestTelemetry booted) = some frameB ∧
      packetBytes (exec (.setDutyCycle 0x000186A0) booted) =
        some [0x02, 0x05, 0x05, 0x00, 0x01, 0x86, 0xA0, 0x10, 0xB3, 0x03] ∧
      packetBytes (exec (.setCurrent 0xFFFFFA24) booted) =
        some [0x02, 0x05, 0x06, 0xFF, 0xFF, 0xFA, 0x24, 0xD1, 0xA9, 0x03] ∧
      packetBytes (exec (.setCurrentBrake 0x000007D0) booted) =
        some [0x02, 0x05, 0x07, 0x00, 0x00, 0x07, 0xD0, 0x35, 0x3E, 0x03] ∧
      packetBytes (exec (.setRPM 0x80000000) booted) =
        some [0x02, 0x05, 0x08, 0x80, 0x00, 0x00, 0x00, 0xDF, 0x15, 0x03] ∧
      packetBytes (exec (.setPosition 0x15752A00) booted) =
        some [0x02, 0x05, 0x09, 0x15, 0x75, 0x2A, 0x00, 0xD5, 0x4B, 0x03] ∧
      packetBytes (exec (.setServoPosition 0x03E8) booted) =
        some [0x02, 0x03, 0x0C, 0x03, 0xE8, 0x5C, 0x14, 0x03] := by decide +kernel

theorem test_request_encoders :
    packetBytes (exec .encRequestFwVersion booted) = some frameA ∧
      packetBytes (exec .encRequestTelemetry booted) = some frameB := by decide +kernel

/-- S1, and the wrapping duty cycle. -/
theorem test_encSetDutyCycle :
    packetBytes (exec (.encSetDutyCycle (.fin (12345 / 100000))) booted) =
        some [0x02, 0x05, 0x05, 0x00, 0x00, 0x30, 0x39, 0x81, 0xB8, 0x03] ∧
      packetBytes (exec (.encSetDutyCycle (.fin 50000)) booted) =
        some [0x02, 0x05, 0x05, 0x2A, 0x05, 0xF2, 0x00, 0xE2, 0xE1, 0x03] := by decide +kernel

/-- Truncation is toward zero on the negative side too. -/
theorem test_encSetCurrent :
    packetBytes (exec (.encSetCurrent (.fin (-5 / 10000))) booted) =
      some [0x02, 0x05, 0x06, 0x00, 0x00, 0x00, 0x00, 0xCD, 0x85, 0x03] := by decide +kernel

theorem test_encSetCurrentBrake :
    packetBytes (exec (.encSetCurrentBrake (.fin 2)) booted) =
      some [0x02, 0x05, 0x07, 0x00, 0x00, 0x07, 0xD0, 0x35, 0x3E, 0x03] := by decide +kernel

theorem test_encSetRpm :
    packetBytes (exec (.encSetRpm (.fin (-300075 / 100))) booted) =
        some [0x02, 0x05, 0x08, 0xFF, 0xFF, 0xF4, 0x48, 0x90, 0x24, 0x03] ∧
      packetBytes (exec (.encSetRpm (.fin 2147483648)) booted) =
        some [0x02, 0x05, 0x08, 0x80, 0x00, 0x00, 0x00, 0xDF, 0x15, 0x03] := by decide +kernel

/-- Binary REAL: 0.1 in binary32 and binary64 as IEEE 754 has it; the greatest binary32 value, and the tie above it. In
binary32 0.29 is rounded down, to 9730785 / 2^25, and its product with 100000 is rounded up, to 29000. -/
theorem test_binary_real :
    roundBinary 23 127 (1 / 10) = .fin (13421773 / 2 ^ 27) ∧
      roundBinary 52 1023 (-1 / 10) = .fin (-3602879701896397 / 2 ^ 55) ∧
      roundBinary 23 127 (2 ^ 128 - 2 ^ 103 - 1) = .fin (2 ^ 128 - 2 ^ 104) ∧
      roundBinary 23 127 (2 ^ 128 - 2 ^ 103) = .posInf ∧
      fix (.binary 23 127) (.fin (29 / 100)) 100000 32 = 29000 := by decide +kernel

theorem test_encSetPosition :
    packetBytes (exec (.encSetPosition (.fin (-1 / 1000000))) booted) =
      some [0x02, 0x05, 0x09, 0xFF, 0xFF, 0xFF, 0xFF, 0x31, 0xB3, 0x03] := by decide +kernel

theorem test_encSetServoPosition :
    packetBytes (exec (.encSetServoPosition (.fin 70)) booted) =
        some [0x02, 0x03, 0x0C, 0x11, 0x70, 0x3B, 0xB4, 0x03] ∧
      packetBytes (exec (.encSetServoPosition (.fin (32768 / 1000))) booted) =
        some [0x02, 0x03, 0x0C, 0x80, 0x00, 0x6E, 0xF9, 0x03] := by decide +kernel

/-- An argument that is no number still gives a command: the field alone is free (log entry 16). -/
theorem test_nan_completes :
    (packetBytes (exec (.encSetServoPosition .nan) booted)).map List.length = some 8 ∧
      (packetBytes (exec (.encSetServoPosition .nan) booted)).map (List.take 3) = some [0x02, 0x03, 0x0C] := by
  decide +kernel

/-! ### Registration, the CRC and the codec (sections 2, 3 and P6) -/

theorem test_registerType :
    (after (exec (.registerType 0x04 .telemetry) State.reset)).map State.registry = some [(4, .telemetry)] ∧
      (after (exec (.registerType 0x04 .telemetry) { State.reset with registry := [(4, .telemetry)] })).map
        State.faulted = some (some (.duplicateType 4)) := by decide +kernel

theorem test_registerType_frozen :
    (after (exec (.registerType 0x05 .setRPM) booted)).map State.faulted = some (some (.registryFrozen 5)) := by decide +kernel

theorem test_crc16 :
    result (exec (.crc16 [0x01]) booted) = some (.crc 0x1021) ∧
      result (exec (.crc16 [0x05, 0x00, 0x00, 0x30, 0x39]) booted) = some (.crc 0x81B8) := by decide +kernel

/-- Reflection, worked by hand from R111: with `init = 0` the byte 80 reflected is 01, and the register 1021 of the
byte 01 reflected is 8408. -/
theorem test_crc16_reflected :
    crc16 { defaultCrc with refin := true } [0x80] = 0x1021 ∧
      crc16 { defaultCrc with refout := true } [0x01] = 0x8408 ∧
      crc16 { defaultCrc with xorout := 0xFFFF } [0x01] = 0xEFDE := by decide +kernel

/-- V3.2. -/
theorem test_buildFrame_faults :
    (after (exec (.buildFrame 1025) booted)).map State.faulted = some (some (.payloadSize 1025)) ∧
      (after (exec (.buildFrame (-1)) booted)).map State.faulted = some (some (.payloadSize (-1))) := by decide +kernel

/-- The fixed bytes of R121 around the free ones. -/
theorem test_buildFrame_layout :
    (match result (exec (.buildFrame 1) booted) with
      | some (.frame f) => some (f.buf.take 2, f.buf.drop 5, f.payOff, f.payLen)
      | _ => none) = some ([0x02, 0x01], [0x03], 2, 1) := by decide +kernel

/-- V3.1: the payload `04 00` sealed. -/
theorem test_sealFrame :
    result (exec (.sealFrame ⟨[0x02, 0x02, 0x04, 0x00, 0x55, 0xAA, 0x03], 2, 2⟩) booted) =
      some (.frame ⟨[0x02, 0x02, 0x04, 0x00, 0xCC, 0xC4, 0x03], 2, 2⟩) := by decide +kernel

/-- V3.3. -/
theorem test_extractFrame :
    result (exec (.extractFrame frameB 2 1) booted) = some (.frame valueB) ∧
      (after (exec (.extractFrame frameB 0 1) booted)).map State.faulted = some (some (.frameRange 6 0 1)) := by decide +kernel

theorem test_extractFrame_range :
    (after (exec (.extractFrame frameB 2 4) booted)).map State.faulted = some (some (.frameRange 6 2 4)) ∧
      result (exec (.extractFrame frameB 2 3) booted) = some (.frame ⟨frameB, 2, 3⟩) := by decide +kernel

/-! ### CREATE_PACKET (section 4) -/

/-- V4.1: every outcome once. -/
theorem test_createPacket_outcomes :
    created (exec (.createPacket [0x07, 0x01, 0x02]) booted) = some (.reject .badSof) ∧
      created (exec (.createPacket [0x03]) booted) = some (.needMore 2) ∧
      created (exec (.createPacket [0x02, 0x00]) booted) = some (.reject .lenZero) ∧
      created (exec (.createPacket [0x03, 0xFF, 0xFF]) booted) = some (.reject .lenTooLarge) ∧
      created (exec (.createPacket [0x03, 0x04, 0x00]) booted) = some (.needMore 1027) ∧
      created (exec (.createPacket [0x02, 0x01, 0x04, 0x41, 0x84, 0x03]) booted) = some (.reject .badCrc) ∧
      created (exec (.createPacket [0x02, 0x05, 0x05, 0x00, 0x00, 0x30, 0x39, 0x81, 0xB8, 0x03]) booted) =
        some (.reject .unknownType) ∧
      created (exec (.createPacket (frameB ++ [0xAA, 0xBB])) booted) = some (.packet ⟨valueB, .telemetry⟩) := by
  decide +kernel

theorem test_createPacket_empty :
    (after (exec (.createPacket []) booted)).map State.faulted = some (some .emptyWindow) := by decide +kernel

/-! ### The reassembler (section 5, P2, P5) -/

theorem test_rxAppend :
    (after (exec (.rxAppend [0x02, 0x01]) { State.reset with rxbuf := [0xFF] })).map State.rxbuf =
        some [0xFF, 0x02, 0x01] ∧
      (after (exec (.rxAppend [0x02]) (passing frameB 0))).map (fun t => (t.rxbuf, t.rxWait)) =
        some (frameB, [[0x02]]) := by decide +kernel

/-- S3. -/
theorem test_scanPass_resynchronises :
    (after (exec .scanPass (armed (0xFF :: frameA ++ frameB)))).map
        (fun t => (t.pktOut, t.rxbuf, t.rejLog, t.scanState)) =
      some ([⟨⟨frameA, 2, 1⟩, .firmwareVersion⟩, ⟨valueB, .telemetry⟩], [], [], .idle) := by decide +kernel

/-- V5.11: the stray EOF byte of the bad frame holds the good one back. -/
theorem test_scanPass_holds_back :
    (after (exec .scanPass (armed ([0x02, 0x01, 0x04, 0x41, 0x84, 0x03] ++ frameA)))).map
        (fun t => (t.pktOut, t.rxbuf, t.rejLog)) =
      some ([], 0x03 :: frameA, [.badCrc]) := by decide +kernel

/-- V5.14 by the reference scan. -/
theorem test_scan_reference :
    (scan defaultCrc booted.registry (0x02 :: frameA ++ frameB)).packets.map Packet.kind =
        [.firmwareVersion, .telemetry] ∧
      (scan defaultCrc booted.registry (0x02 :: frameA ++ frameB)).rejects = [.badCrc] := by decide +kernel

theorem test_loopTest :
    (after (exec .loopTest booted)).map State.scanState = some .armed ∧
      (after (exec .loopTest { booted with run := false, rxbuf := [0x02], joinWait := true })).map
        (fun t => (t.scanState, t.rxbuf, t.joinWait)) = some (.stopped, [], false) := by decide +kernel

theorem test_start :
    (after (exec .start { State.reset with pktHandler := .set, rxbuf := [0x02] })).map
        (fun t => (t.rxbuf, t.run, t.scanState, t.regFrozen, t.result)) =
      some ([], true, .idle, true, .ok) ∧
      (after (exec .start { booted with rxbuf := [0x02] })).map (fun t => (t.rxbuf, t.result)) =
        some ([0x02], .alreadyRunning) := by decide +kernel

theorem test_stop :
    (after (exec .stop (armed frameB))).map (fun t => (t.run, t.scanState, t.rxbuf)) =
        some (false, .armed, frameB) ∧
      after (exec .stop State.reset) = some State.reset := by decide +kernel

/-- R251, U8: the handler call for the second packet of a pass does not return, whatever PKT_OUT held before (R31). -/
theorem test_scanPass_hangs_at_a_later_packet :
    (after (exec .scanPass { armed (frameA ++ frameB) with handlerLeft := some 1, pktOut := [⟨valueB, .telemetry⟩] })).map
        (fun t => (t.pktOut.length, t.rxbuf, t.pos, t.scanState, t.lock)) =
      some (3, frameA ++ frameB, 6, .inPass, .heldScan) := by decide +kernel

/-- R251: a handler that returns for two more packets returns for those of one pass; the next call would hang. -/
theorem test_scanPass_uses_up_calls :
    (after (exec .scanPass { armed (frameA ++ frameB) with handlerLeft := some 2 })).map
      (fun t => (t.handlerLeft, t.rxbuf, t.scanState, t.lock)) = some (some 0, [], .idle, .free) := by decide +kernel

/-- R184: while a STOP waits, its caller's START is not taken; a callback is; then LOOP_TEST ends the loop. -/
theorem test_join_holds_the_caller :
    (after (step { joining with pending := [⟨false, [0x04]⟩, ⟨false, [0x06, 1, 0xFF, 0]⟩] })).map
        (fun t => (t.rxbuf, t.pending, t.result)) = some ([0xFF], [⟨false, [0x04]⟩], .ok) ∧
      (after (step { joining with pending := [⟨false, [0x04]⟩] })).map
        (fun t => (t.scanState, t.joinWait, t.pending)) = some (.stopped, false, [⟨false, [0x04]⟩]) := by decide +kernel

/-- R201: an encoder runs on any thread at any time, a waiting STOP's among them; the START before it still waits. -/
theorem test_join_lets_encoders_run :
    (after (step { joining with pending := [⟨false, [0x04]⟩, ⟨false, [0x11]⟩] })).map (fun t => (t.result, t.pending)) =
      some (.packet ⟨valueB, .requestTelemetry⟩, [⟨false, [0x04]⟩]) := by decide +kernel

theorem test_setPacketHandler :
    (after (exec .setPacketHandler State.reset)).map State.pktHandler = some .set ∧
      after (exec .setPacketHandler booted) = none := by decide +kernel

theorem test_setErrorHandler :
    (after (exec .setErrorHandler State.reset)).map State.errHandler = some .set ∧
      after (exec .setErrorHandler booted) = none := by decide +kernel

theorem test_send :
    (after (exec (.send valueB) booted)).map State.txOut = some [frameB] := by decide +kernel

/-! ### The record decoders (section 7) -/

/-- V7.1. -/
theorem test_decTelemetry_scaled :
    tel .tempFet = some (.real (.fin 15)) ∧ tel .tempMotor = some (.real (.fin 30)) ∧
      tel .currentMotor = some (.real (.fin (1234 / 100))) ∧ tel .currentIn = some (.real (.fin (-1))) ∧
      tel .dutyNow = some (.real (.fin (1 / 2))) ∧ tel .rpm = some (.real (.fin 3000)) ∧
      tel .vIn = some (.real (.fin 24)) ∧
      tel .ampHours = some (.real (.fin (12345 / 10000))) ∧ tel .ampHoursCharged = some (.real (.fin 0)) ∧
      tel .wattHours = some (.real (.fin (123456 / 10000))) ∧ tel .wattHoursCharged = some (.real (.fin (1 / 100))) := by
  decide +kernel

/-- V7.1. -/
theorem test_decTelemetry_rest :
    tel .tachometer = some (.int (-1)) ∧ tel .tachometerAbs = some (.int 1000) ∧ tel .faultCode = some (.byte 0) ∧
      tel .pidPos = some (.real (.fin 90)) ∧ tel .controllerId = some (.byte 0x2A) ∧
      tel .tempMos1 = some (.real (.fin (151 / 10))) ∧ tel .tempMos2 = some (.real (.fin (152 / 10))) ∧
      tel .tempMos3 = some (.real (.fin (153 / 10))) ∧
      tel .vD = some (.real (.fin (-1))) ∧ tel .vQ = some (.real (.fin 12)) := by decide +kernel

/-- V7.3. -/
theorem test_decFwVersion :
    fw .fwMajor = some (.byte 5) ∧ fw .fwMinor = some (.byte 2) ∧ fw .hwName = some (.bytes [0x34, 0x31, 0x30]) ∧
      fw .uuid =
        some (.bytes [0x01, 0x02, 0x03, 0x04, 0x05, 0x06, 0x07, 0x08, 0x09, 0x0A, 0x0B, 0x0C]) ∧
      fw .paired = some (.byte 0) ∧ fw .deviceVersion = some (.byte 3) := by decide +kernel

/-- V7.2 and V7.3: payloads shorter than the field. -/
theorem test_short_payloads_fault :
    (after (exec (.decTelemetry (.access .tempMotor) frameS6) booted)).map State.faulted =
        some (some (.accessRange .payload 3 2)) ∧
      (after (exec (.decFwVersion (.access .fwMajor) ⟨frameA, 2, 1⟩) booted)).map State.faulted =
        some (some (.accessRange .payload 1 1)) := by decide +kernel

/-! ### The names and codes of results -/

theorem test_codes :
    [RejectReason.badSof, .lenTooLarge, .lenZero, .badEof, .badCrc, .unknownType].map RejectReason.code =
        [1, 2, 3, 4, 5, 6] ∧
      [FatalFault.payloadSize 0, .frameRange 0 0 0, .duplicateType 0, .registryFrozen 0, .emptyWindow,
        .accessRange .payload 0 0].map FatalFault.code = [1, 2, 3, 4, 5, 6] ∧
      bytesNeeded (.needMore 4) = 4 ∧ bytesNeeded (.reject .badCrc) = 0 ∧
      packetName ⟨valueB, .telemetry⟩ = "Telemetry" ∧ startupPhase State.reset = true ∧
      stopPending { booted with run := false } = true := by decide +kernel

/-! ### Hypotheses that are met: one theorem per statement, named `witness_<Name>`

Each shows a concrete state and operands that meet the hypotheses of the statement of that name, for each clause and
at the ends of its range. -/

/-- A pending machine: `q` is next. -/
def pend (s : State) (c : Bool) (b : Bytes) : State := { s with pending := [⟨c, b⟩] }

theorem witness_DecodeOfEncodeIsTheInstruction :
    defaultConfig.wf ∧ (Instr.nonCandidate 0x01).wf defaultConfig ∧ (Instr.unknownType 0xFF).wf defaultConfig ∧
      (Instr.sealFrame ⟨[0x02, 0x00, 0x00, 0x00, 0x03], 1, 3⟩).wf defaultConfig ∧
      (Instr.send ⟨List.replicate 1030 0, 3, 1024⟩).wf defaultConfig := by decide +kernel

theorem witness_UnlistedOperationNumbersAreRefused :
    ∀ b ∈ ([0x00, 0x0F, 0x1A, 0xFF] : List Byte),
      b ∉ ([0x01, 0x02, 0x03, 0x04, 0x05, 0x06, 0x07, 0x08, 0x09, 0x0A, 0x0B, 0x0C, 0x0D, 0x0E, 0x10, 0x11, 0x12, 0x13,
        0x14, 0x15, 0x16, 0x17, 0x18, 0x19] : List Byte) := by decide +kernel

theorem witness_StepRunsThePendingInstruction :
    (pend booted false [0x0E]).live ∧ scanning (pend booted false [0x0E]) = false ∧
      (pend booted false [0x0E]).joinWait = false ∧ (pend booted false [0x0E]).pending = ⟨false, [0x0E]⟩ :: [] ∧
      decode (pend booted false [0x0E]).cfg .op [0x0E] = .ok (.loopTest, []) ∧
      (pend booted true [0x04]).live ∧ scanning (pend booted true [0x04]) = false ∧
      (pend booted true [0x04]).joinWait = false ∧ (pend booted true [0x04]).pending = ⟨true, [0x04]⟩ :: [] ∧
      decode (pend booted true [0x04]).cfg .tidOut [0x04] = .ok (.requestTelemetry, []) := by decide +kernel

/-- A STOP's join asleep, armed and in a hung handler. START and CREATE_PACKET wait; an RX_APPEND, a SEND and a command do
not. -/
theorem witness_AStopHoldsTheApplicationsCalls :
    (∀ s ∈ [joining, { joining with scanState := .armed }, { stuck with run := false, joinWait := true }],
      s.live ∧ scanning s = false ∧ s.joinWait = true) ∧
      joining.scanState = .idle ∧ ({ joining with scanState := .armed }).lock = .free ∧
      { stuck with run := false, joinWait := true }.scanState = .inPass ∧
      decode defaultConfig .op [0x04] = .ok (.start, []) ∧
      decode defaultConfig .op [0x08, 1, 0x02, 0] = .ok (.createPacket [0x02], []) ∧
      decode defaultConfig .op [0x06, 1, 0xFF, 0] = .ok (.rxAppend [0xFF], []) ∧
      decode defaultConfig .op [0x0D, 1, 0x02, 0, 0, 0] = .ok (.send ⟨[0x02], 0, 0⟩, []) ∧
      decode defaultConfig .tidOut [0x04] = .ok (.requestTelemetry, []) := by decide +kernel

/-- The search clause at the buffer's last byte, and the type-lookup clause. -/
theorem witness_StepRunsTheInstructionOnTheWire :
    (passing (frameB ++ [0x55]) 6).live ∧ (passing (frameB ++ [0x55]) 6).scanState = .inPass ∧
      (passing (frameB ++ [0x55]) 6).subState = .search ∧
      (passing (frameB ++ [0x55]) 6).pos < (passing (frameB ++ [0x55]) 6).rxbuf.length ∧
      decode defaultConfig .sof ((frameB ++ [0x55]).drop 6) = .ok (.nonCandidate 0x55, []) ∧
      (lookingUp frameB).live ∧ (lookingUp frameB).scanState = .inPass ∧ (lookingUp frameB).subState = .typeLookup ∧
      decode (lookingUp frameB).cfg .tidIn
        ((lookingUp frameB).rxbuf.drop ((lookingUp frameB).pos + (lookingUp frameB).work.hdr)) =
        .ok (.telemetry, [0x40, 0x84, 0x03]) := by decide +kernel

theorem witness_StepPollsWhenNothingIsPending :
    booted.live ∧ booted.pending = [] ∧ booted.scanState = .idle ∧
      (armed frameB).live ∧ (armed frameB).pending = [] ∧ (armed frameB).scanState = .armed ∧
      (armed frameB).lock = .free ∧
      State.reset.live ∧ State.reset.pending = [] ∧ State.reset.scanState = .stopped := by decide +kernel

theorem witness_NothingRunsAfterAFatalFault :
    (raise .emptyWindow booted).faulted = some .emptyWindow := by decide +kernel

/-- The invariant in the middle of a pass, at a type lookup. -/
theorem lookingUp_inv : Inv (lookingUp frameB) where
  registrySorted := by decide +kernel
  stoppedNotRunning := by decide +kernel
  startedReady := by decide +kernel
  lockInPass := by decide +kernel
  appendAtomic := by decide +kernel
  joinPending := by decide +kernel
  waitForPass := by decide +kernel
  posInBuffer := by decide +kernel
  searchOutside := by decide +kernel
  stuckInHandler := fun h => absurd h (by decide +kernel)
  lookupReady := fun _ => ⟨by decide +kernel, by decide +kernel, by decide +kernel, by decide +kernel, by decide +kernel⟩
  packetsLaidOut := fun _ h => absurd h List.not_mem_nil

theorem witness_EveryStepKeepsTheInvariant :
    Inv (lookingUp frameB) ∧ ∃ t, step (lookingUp frameB) = .next t := ⟨lookingUp_inv, _, rfl⟩

theorem witness_ParametersStayAndTracesGrow : ∃ t, step (lookingUp frameB) = .next t ∧ t.pktOut ≠ [] :=
  ⟨_, rfl, by decide +kernel⟩

theorem witness_FrozenRegistryNeverChanges :
    booted.regFrozen = true ∧ ∃ t, step booted = .next t := ⟨rfl, _, rfl⟩

theorem witness_RegisterTypeWritesItsEntryOrFaults :
    State.reset.live ∧ State.reset.regFrozen = false ∧ Registry.find State.reset.registry 0x00 = none ∧
      Registry.find State.reset.registry 0xFF = none ∧
      (Registry.find { State.reset with registry := [(0xFF, .telemetry)] }.registry 0xFF).isSome ∧
      booted.live ∧ booted.regFrozen = true := by decide +kernel

theorem witness_StartupRegistersTheInitialRegistry :
    State.reset.live ∧ State.reset.cfg.wf ∧ State.reset.regFrozen = false ∧ State.reset.registry = [] := by
  decide +kernel

theorem witness_Crc16ReturnsTheChecksum : booted.live := by decide +kernel

theorem witness_OneFlippedBitChangesTheChecksum :
    defaultCrc.poly ≠ 0 ∧ (0x0001 : Half) ≠ 0 ∧ 0 < 8 ∧ 7 < 8 := by decide +kernel

theorem witness_DefaultChecksumHasTheCheckValue : booted.live ∧ booted.cfg.crc = defaultCrc := by decide +kernel

/-- Both clauses at the ends of their ranges. -/
theorem witness_BuildFrameLaysOutTheFrameOrFaults :
    booted.live ∧ (∀ n ∈ ([0, 255, 256, 1024] : List Int), 0 ≤ n ∧ n ≤ 1024) ∧
      ∀ n ∈ ([-1, 1025] : List Int), n < 0 ∨ 1024 < n := by decide +kernel

theorem witness_SealFrameWritesTheChecksum : booted.live := by decide +kernel

/-- The shortest and the longest sequence in range, and each bound passed by one. -/
theorem witness_ExtractFrameChecksItsRange :
    booted.live ∧
      (∀ q ∈ [(5, 1, 3), (6, 2, 3), (1030, 3, 1026)], 5 ≤ q.1 ∧ q.1 ≤ 1030 ∧ 1 ≤ q.2.1 ∧ q.2.1 + q.2.2 + 1 ≤ q.1) ∧
      (∀ q ∈ [(4, 1, 2), (1031, 1, 0), (6, 0, 1), (6, 2, 4)],
        ¬ (5 ≤ q.1 ∧ q.1 ≤ 1030 ∧ 1 ≤ q.2.1 ∧ q.2.1 + q.2.2 + 1 ≤ q.1)) := by decide +kernel

/-- Payloads of 1, 255, 256 and 1024 bytes. -/
theorem witness_BuiltFramesAreReceived :
    booted.live ∧ ∀ n ∈ [0, 254, 255, 1023],
      (0x04 :: List.replicate n (0 : Byte)).head? = some (0x04 : Byte) ∧
        (0x04 :: List.replicate n (0 : Byte)).length ≤ MAX_PAYLOAD := by decide +kernel

theorem witness_OneFlippedBitIsRejected :
    booted.live ∧ booted.cfg.crc.poly ≠ 0 ∧ ([0x04] : Bytes).head? = some 0x04 ∧
      ([0x04] : Bytes).length ≤ MAX_PAYLOAD ∧ Registry.find booted.registry 0x04 = some .telemetry ∧
      0 < ([0x04] : Bytes).length + 2 ∧ 2 < ([0x04] : Bytes).length + 2 ∧ 7 < 8 := by decide +kernel

theorem witness_CreatePacketDecidesInPriorityOrder :
    booted.live ∧ ([] : Bytes) = [] ∧ frameB ≠ [] ∧ ([0x07] : Bytes) ≠ [] := by decide +kernel

/-- A decided window, and one that lacks four bytes (S4). -/
theorem witness_DecidedCandidatesStayDecided :
    frameB ≠ [] ∧ classify defaultCrc booted.registry frameB = .packet ⟨valueB, .telemetry⟩ ∧
      classify defaultCrc booted.registry [0x02, 0x01] = .needMore 4 ∧ ([0x04, 0x40, 0x84] : Bytes).length < 4 := by
  decide +kernel

theorem witness_RxAppendAppendsOrWaits :
    booted.live ∧ booted.lock = .free ∧ (passing frameB 0).live ∧ (passing frameB 0).lock ≠ .free := by decide +kernel

theorem witness_LoopTestObservesTheRunFlag :
    booted.live ∧ booted.scanState = .idle ∧ booted.run = true ∧
      { booted with run := false }.scanState = .idle ∧ { booted with run := false }.run = false := by decide +kernel

/-- A pass over `frameA` and `frameB`, of two packets: a handler that always returns, one that returns for just those two, and
one whose first or second call hangs. -/
theorem witness_ScanPassIsTheReferenceScan :
    (armed (frameA ++ frameB)).live ∧ (armed (frameA ++ frameB)).scanState = .armed ∧
      (armed (frameA ++ frameB)).lock = .free ∧ (armed (frameA ++ frameB)).regFrozen = true ∧
      (armed (frameA ++ frameB)).handlerLeft = none ∧
      (scan defaultCrc booted.registry (frameA ++ frameB)).packets.length = 2 ∧
      (∀ n ∈ [2, 3], 2 ≤ n) ∧ ∀ n ∈ [0, 1], n < 2 := by decide +kernel

/-- The outcome of a pass is some next state. -/
def passState (s : State) : State := (after (exec .scanPass s)).getD s

/-- The frame B cut after its first two bytes. -/
theorem witness_ChunkBoundariesDoNotMatter :
    (armed [0x02, 0x01]).live ∧ (armed [0x02, 0x01]).scanState = .armed ∧ (armed [0x02, 0x01]).lock = .free ∧
      (armed [0x02, 0x01]).handlerLeft = none ∧ (armed [0x02, 0x01]).rxWait = [] ∧
      after (exec .scanPass (armed [0x02, 0x01])) = some (passState (armed [0x02, 0x01])) ∧
      (after (exec .scanPass { passState (armed [0x02, 0x01]) with
        scanState := .armed, rxbuf := (passState (armed [0x02, 0x01])).rxbuf ++ [0x04, 0x40, 0x84, 0x03] })).isSome ∧
      (after (exec .scanPass
        { armed [0x02, 0x01] with rxbuf := [0x02, 0x01] ++ [0x04, 0x40, 0x84, 0x03] })).isSome := by decide +kernel

theorem witness_PassLeavesAnUndecidedCandidate :
    (armed [0x55, 0x02]).scanState = .armed ∧ (armed [0x55, 0x02]).lock = .free ∧
      (armed [0x55, 0x02]).handlerLeft = none ∧ (armed [0x55, 0x02]).rxWait = [] ∧
      (after (exec .scanPass (armed [0x55, 0x02]))).map State.rxbuf = some [0x02] := by decide +kernel

theorem witness_ReceivedBytesNeverFault :
    booted.live ∧ (armed frameB).live ∧ frameB ≠ [] ∧ (after (exec (.rxAppend [0xFF]) booted)).isSome ∧
      (after (exec .loopTest booted)).isSome ∧ (after (exec .scanPass (armed frameB))).isSome ∧
      (after (exec (.createPacket frameB) booted)).isSome := by decide +kernel

theorem witness_AtomicPassIsTheStepwisePass :
    (armed frameB).pending = [] ∧ (armed frameB).scanState = .armed ∧ (armed frameB).lock = .free ∧
      (after (exec .scanPass (armed frameB))).isSome := by decide +kernel

theorem witness_HungHandlerHoldsTheLock :
    stuck.live ∧ Inv stuck ∧ stuck.subState = .inHandler ∧ stuck.pending = [] :=
  ⟨rfl,
    { registrySorted := by decide +kernel
      stoppedNotRunning := by decide +kernel
      startedReady := by decide +kernel
      lockInPass := by decide +kernel
      appendAtomic := by decide +kernel
      joinPending := by decide +kernel
      waitForPass := by decide +kernel
      posInBuffer := by decide +kernel
      searchOutside := by decide +kernel
      stuckInHandler := fun _ => ⟨rfl, by decide +kernel⟩
      lookupReady := fun h => absurd h (by decide +kernel)
      packetsLaidOut := by
        intro p hp
        rw [List.mem_singleton.mp hp]
        decide +kernel },
    rfl, rfl⟩

theorem witness_ScannerStepsNeedTheirState :
    booted.live ∧ booted.scanState ≠ .armed ∧ booted.scanState ≠ .inPass ∧
      { armed frameB with lock := .heldScan }.live ∧ { armed frameB with lock := .heldScan }.scanState = .armed ∧
      { armed frameB with lock := .heldScan }.lock ≠ .free ∧ (armed frameB).scanState ≠ .idle ∧
      (lookingUp frameB).subState ≠ .search ∧ (passing frameB 0).subState ≠ .typeLookup := by decide +kernel

theorem witness_NonCandidateIsSkipped :
    (passing [0x55] 0).live ∧ (passing [0x55] 0).scanState = .inPass ∧ (passing [0x55] 0).subState = .search := by
  decide +kernel

/-- A candidate of each SOF value, and each of the three outcomes. -/
theorem witness_FrameRowsClassifyTheCandidate :
    (passing frameB 0).live ∧ (passing frameB 0).scanState = .inPass ∧ (passing frameB 0).subState = .search ∧
      (passing frameB 0).pos < (passing frameB 0).rxbuf.length ∧
      byteAt (window (passing frameB 0)) 0 = 0x02 ∧
      classify defaultCrc booted.registry (window (passing frameB 0)) = .packet ⟨valueB, .telemetry⟩ ∧
      byteAt (window (passing frameB 5)) 0 = 0x03 ∧
      (passing frameB 5).pos < (passing frameB 5).rxbuf.length ∧
      classify defaultCrc booted.registry (window (passing frameB 5)) = .needMore 2 ∧
      byteAt (window (passing [0x03, 0x00, 0x00] 0)) 0 = 0x03 ∧
      classify defaultCrc booted.registry (window (passing [0x03, 0x00, 0x00] 0)) = .reject .lenZero := by
  decide +kernel

/-- Each row's identifier, registered and not, with a handler call that returns and one that does not. -/
theorem witness_TypeRowsDispatchTheCandidate :
    (lookingUp frameB).live ∧ (lookingUp frameB).scanState = .inPass ∧ (lookingUp frameB).subState = .typeLookup ∧
      CandidateReady (lookingUp frameB).work (lookingUp frameB).pos (lookingUp frameB).rxbuf.length ∧
      (lookingUp frameB).handlerLeft ≠ some 0 ∧ { lookingUp frameB with handlerLeft := some 0 }.handlerLeft = some 0 ∧
      Registry.find (lookingUp frameB).registry (lookingUp frameB).cfg.tidGetValues = some .telemetry ∧
      Registry.find (lookingUp frameB).registry 0xFF = none :=
  ⟨rfl, rfl, rfl, lookingUp_inv.lookupReady rfl, by decide +kernel, rfl, by decide +kernel, by decide +kernel⟩

theorem witness_StartBeginsAFreshConnection :
    { State.reset with pktHandler := .set }.live ∧ { State.reset with pktHandler := .set }.scanState = .stopped ∧
      booted.live ∧ booted.pktHandler = .set ∧ booted.scanState ≠ .stopped ∧ State.reset.pktHandler = .unset := by
  decide +kernel

theorem witness_HandlersAreSetWhileStopped :
    State.reset.live ∧ State.reset.scanState = .stopped ∧ booted.live ∧ booted.scanState ≠ .stopped := by
  decide +kernel

theorem witness_StopClearsTheRunFlag :
    State.reset.live ∧ State.reset.scanState = .stopped ∧ booted.live ∧ booted.scanState ≠ .stopped := by
  decide +kernel

/-- Stopped in the sleep, and stopped with a pass armed. -/
theorem witness_StopEndsAtTheNextLoopTest :
    booted.live ∧ booted.lock = .free ∧ booted.handlerLeft = none ∧ booted.scanState = .idle ∧
      (armed frameB).live ∧ (armed frameB).lock = .free ∧ (armed frameB).handlerLeft = none ∧
      (armed frameB).scanState = .armed := by decide +kernel

theorem witness_SendAppendsTheFrame : booted.live := by decide +kernel

theorem witness_EncodersBuildTheCommandFrame : booted.live := by decide +kernel

theorem witness_CommandRowsBuildTheirPayload :
    booted.live ∧ ((Instr.setRPM 0x80000000, Kind.setRPM) : Instr × Kind) ∈
      [(Instr.requestFirmwareVersion, Kind.requestFirmwareVersion), (.requestTelemetry, .requestTelemetry),
        (.setDutyCycle 0x80000000, .setDutyCycle), (.setCurrent 0x80000000, .setCurrent),
        (.setCurrentBrake 0x80000000, .setCurrentBrake), (.setRPM 0x80000000, .setRPM),
        (.setPosition 0x80000000, .setPosition), (.setServoPosition 0, .setServoPosition)] := by decide +kernel

/-- Both widths, at the last products inside them. -/
theorem witness_CommandFieldsRoundTrip :
    1 ≤ 1000 ∧ |(32767999 / 1000000 : Rat) * (1000 : Nat)| < 2 ^ (16 - 1) ∧
      |(-2147483647 : Rat) * (1 : Nat)| < 2 ^ (32 - 1) ∧ |(12345 / 100000 : Rat) * (100000 : Nat)| < 2 ^ (32 - 1) := by
  norm_num [abs_lt]

/-- binary32: a finite result; a tie, with both its neighbours; the greatest value, the last number that rounds to it and the
first that does not; values of the type; an argument and a product that are values of it. -/
theorem witness_BinaryRealsRoundToNearest :
    roundBinary 23 127 (1 / 10) = .fin (13421773 / 2 ^ 27) ∧ BinaryValue 23 127 (13421773 / 2 ^ 27) ∧
      roundBinary 23 127 (2 ^ 24 + 1) = .fin (2 ^ 24) ∧ BinaryValue 23 127 (2 ^ 24 + 2) ∧
      |((2 : Rat) ^ 24 + 2) - (2 ^ 24 + 1)| = |(2 : Rat) ^ 24 - (2 ^ 24 + 1)| ∧
      ((2 : Rat) ^ (127 + 1) - 2 ^ (((127 : Nat) : Int) - (23 : Nat) - 1) = 2 ^ 128 - 2 ^ 103) ∧
      |(2 : Rat) ^ 128 - 2 ^ 103 - 1| < 2 ^ 128 - 2 ^ 103 ∧ BinaryValue 23 127 (2 ^ 128 - 2 ^ 104) ∧
      |(2 : Rat) ^ 128 - 2 ^ 104| < 2 ^ (127 + 1) ∧ toReal (.binary 23 127) (1 / 2) = .fin (1 / 2) ∧
      toReal (.binary 23 127) (1 / 2 * (1000 : Nat)) = .fin (1 / 2 * (1000 : Nat)) :=
  ⟨by decide +kernel, ⟨13421773, -27, by decide, by decide, by norm_num⟩, by decide +kernel,
    ⟨2 ^ 23 + 1, 1, by decide, by decide, by norm_num⟩, by decide +kernel, by norm_num, by decide +kernel,
    ⟨2 ^ 24 - 1, 104, by decide, by decide, by norm_num⟩, by decide +kernel, by decide +kernel, by decide +kernel⟩

theorem witness_DecodersStoreTheFrame : booted.live := by decide +kernel

theorem witness_TempFetIsTenthsOfADegree :
    booted.live ∧ booted.cfg.real = .exact ∧ payload frameS6 = 0x04 :: 0x00 :: 0x96 :: [] ∧
      payload ⟨[0x02, 0x03, 0x04, 0xFF, 0x9C, 0x00, 0x00, 0x03], 2, 3⟩ = 0x04 :: 0xFF :: 0x9C :: [] ∧
      (payload ⟨[0x02, 0x02, 0x04, 0x00, 0xCC, 0xC4, 0x03], 2, 2⟩).length < 3 := by decide +kernel

/-- For the widest field of each group, a payload it ends with and one that ends a byte before it. -/
theorem witness_TelemetryAccessorsReadOrFault :
    booted.live ∧ (∀ p ∈ [defaultTel.vQ, defaultTel.tachometerAbs, defaultTel.controllerId],
      p.off + widthBytes p.w ≤ (payload { frameTel with payLen := p.off + widthBytes p.w }).length ∧
        (payload { frameTel with payLen := p.off + widthBytes p.w - 1 }).length < p.off + widthBytes p.w) := by
  decide +kernel

theorem witness_FirmwareRecordFieldsAreRead :
    booted.live ∧
      payload frameFw = [0x00, 0x05, 0x02] ++ [0x34, 0x31, 0x30] ++ [0x00] ++
        [0x01, 0x02, 0x03, 0x04, 0x05, 0x06, 0x07, 0x08, 0x09, 0x0A, 0x0B, 0x0C] ++ [0x00, 0x03] ++ [] ∧
      (∀ b ∈ ([0x34, 0x31, 0x30] : Bytes), b ≠ 0) ∧
      ([0x01, 0x02, 0x03, 0x04, 0x05, 0x06, 0x07, 0x08, 0x09, 0x0A, 0x0B, 0x0C] : Bytes).length = 12 := by
  decide +kernel

/-- Payloads that end before and after each accessor's last byte, without a NUL, and with one. -/
theorem witness_ShortFirmwareRecordsAreOutOfRange :
    booted.live ∧ (payload ⟨frameA, 2, 1⟩).length < 2 ∧ (∀ b ∈ (payload ⟨frameA, 2, 1⟩).drop 3, b ≠ 0) ∧
      2 ≤ (payload { frameFw with payLen := 2 }).length ∧ (payload { frameFw with payLen := 2 }).length < 3 ∧
      3 ≤ (payload { frameFw with payLen := 3 }).length ∧
      (∀ b ∈ (payload { frameFw with payLen := 6 }).drop 3, b ≠ 0) ∧
      (∀ n ∈ [11, 12, 13, 14],
        payload { frameFw with payLen := 7 + n } =
          [0x00, 0x05, 0x02] ++ [0x34, 0x31, 0x30] ++
            0x00 :: ([0x01, 0x02, 0x03, 0x04, 0x05, 0x06, 0x07, 0x08, 0x09, 0x0A, 0x0B, 0x0C, 0x00, 0x03] : Bytes).take n ∧
          (([0x01, 0x02, 0x03, 0x04, 0x05, 0x06, 0x07, 0x08, 0x09, 0x0A, 0x0B, 0x0C, 0x00, 0x03] : Bytes).take n).length
            = n) ∧
      ([0x00, 0x05, 0x02] : Bytes).length = 3 ∧ (∀ b ∈ ([0x34, 0x31, 0x30] : Bytes), b ≠ 0) := by decide +kernel

theorem witness_WideReadsAreTheirBytes :
    5 + 1 ≤ frameB.length ∧ 4 + 2 ≤ frameB.length ∧ 2 + 4 ≤ frameB.length := by decide +kernel

theorem witness_WritesReachTheirBytesOnly :
    5 + 1 ≤ frameB.length ∧ frameB.length < 5 + 2 ∧ (5 < 5 ∨ 5 + 0 ≤ 5) := by decide +kernel

/-- A next state for each way the buffer changes. -/
theorem witness_ReceiveBufferIsAppendConsume :
    (after (exec (.rxAppend [0x02]) booted)).map State.rxbuf = some [0x02] ∧
      (after (exec .loopTest { booted with run := false, rxbuf := [0x02] })).map State.rxbuf = some [] ∧
      (after (exec .scanPass (armed [0x55, 0x02]))).map State.rxbuf = some [0x02] ∧
      (after (exec .frameSmall (passing [0x55, 0x02] 1))).map State.rxbuf = some [0x02] ∧
      (after (exec (.send valueB) (armed frameB))).map State.rxbuf = some frameB := by decide +kernel

/-- One instruction of each agent, and one of two agents, that completes. -/
theorem witness_AgentsKeepToTheirRights :
    (Instr.send valueB).agents = [.app] ∧ (after (exec (.send valueB) booted)).isSome ∧
      (Instr.registerType 4 .telemetry).agents = [.app] ∧ booted.regFrozen = true ∧
      (after (exec (.registerType 4 .telemetry) booted)).isSome ∧
      (Instr.createPacket frameB).agents = [.scan, .app] ∧ (after (exec (.createPacket frameB) booted)).isSome ∧
      (Instr.rxAppend [0x02]).agents = [.rx] ∧ (after (exec (.rxAppend [0x02]) booted)).isSome ∧
      Instr.loopTest.agents = [.scan] ∧ (after (exec .loopTest booted)).isSome := by decide +kernel

/-- `armed frameB` with all of the forgotten state changed. -/
def disturbed : State :=
  { armed frameB with
    pos := 7, work := workB, errHandler := .set, pollInterval := 1, pktOut := [⟨valueB, .telemetry⟩], txOut := [frameA],
    rejLog := [.badCrc] }

/-- Two states that differ in all of the forgotten state, and the next states of a pass from both. -/
theorem witness_UnreadStateIsNeverRead :
    Instr.scanPass.format = .op ∧ (Instr.setRPM 1).format = .tidOut ∧ armed frameB ≠ disturbed ∧
      forgetUnread (forgetTransients (armed frameB)) = forgetUnread (forgetTransients disturbed) ∧
      (after (exec .scanPass (armed frameB))).isSome ∧ (after (exec .scanPass disturbed)).isSome := by decide +kernel

end Sys2Proof.Tests
end

/-! ## Byte spaces: wide reads and writes -/

namespace Sys2Proof.Machine

/-- A read of `n + k` bytes sees the first `n` bytes and then the other `k` (R53). -/
theorem slice_add (s : Bytes) (a n k : Nat) : slice s a (n + k) = slice s a n ++ slice s (a + n) k := by
  rw [slice, slice, slice, List.take_add, List.drop_drop]

theorem getElem?_eq_byteAt {s : Bytes} {a : Nat} (h : a < s.length) : s[a]? = some (byteAt s a) := by
  simp [byteAt, h]

theorem slice_one {s : Bytes} {a : Nat} (h : a < s.length) : slice s a 1 = [byteAt s a] := by
  rw [slice, List.take_one, List.head?_drop, getElem?_eq_byteAt h]
  rfl

theorem memRead_one {sp : Space} {m : Bytes} {a : Nat} (h : a < m.length) :
    memRead sp m a 1 = .ok (byteAt m a).toNat := by
  rw [memRead_ok h, slice_one h]
  simp [beNat]

/-- A wide read is the reads of its two parts, the part at the lower address in the high bits (R53). -/
theorem memRead_add {sp : Space} {m : Bytes} {a n k : Nat} (h : a + (n + k) ≤ m.length) :
    ∃ x y, memRead sp m a n = .ok x ∧ memRead sp m (a + n) k = .ok y ∧
      memRead sp m a (n + k) = .ok (x <<< (8 * k) ||| y) := by
  have hk : a + n + k ≤ m.length := by omega
  refine ⟨_, _, memRead_ok (by omega), memRead_ok hk, ?_⟩
  have hlt : beNat (slice m (a + n) k) < 2 ^ (8 * k) := by
    have := beNat_lt (slice m (a + n) k)
    rwa [slice_length hk, show 256 = 2 ^ 8 from rfl, ← pow_mul] at this
  rw [memRead_ok h, slice_add, beNat_append, slice_length hk, ← Nat.shiftLeft_add_eq_or_of_lt hlt, Nat.shiftLeft_eq,
    show 256 = 2 ^ 8 from rfl, ← pow_mul]

/-- What a write stored is read back, cut to its width (R16). -/
theorem memRead_overwrite {sp : Space} {m : Bytes} {a n v : Nat} (h : a + n ≤ m.length) :
    memRead sp (overwrite m a (beBytes n v)) a n = .ok (v % 256 ^ n) := by
  have hl : a + (beBytes n v).length ≤ m.length := by rwa [beBytes_length]
  have hback := slice_overwrite hl
  rw [beBytes_length] at hback
  rw [memRead_ok (by rwa [overwrite_length hl]), hback, beNat_beBytes]

/-- Settles O55: one byte by its slice, two and four bytes as the two parts of one wide read. -/
theorem wideReadsAreTheirBytes : Obligations.WideReadsAreTheirBytes := by
  intro sp m a
  exact ⟨fun h => ⟨memRead_one h, getElem?_eq_byteAt h⟩, fun h => memRead_add (n := 1) (k := 1) h,
    fun h => memRead_add (n := 2) (k := 2) h⟩

/-- Settles O56, by what `overwrite` changes and what it leaves. -/
theorem writesReachTheirBytesOnly : Obligations.WritesReachTheirBytesOnly := by
  intro sp m a n v
  refine ⟨fun h => ?_, fun h => ⟨memWrite_error h, memRead_error h⟩⟩
  have hl : a + (beBytes n v).length ≤ m.length := by rwa [beBytes_length]
  refine ⟨_, memWrite_ok h, overwrite_length hl, memRead_overwrite h, fun i hi => overwrite_getElem? hl ?_⟩
  rwa [beBytes_length]

end Sys2Proof.Machine

/-! ## Where a step comes from, outside a pass -/

namespace Sys2Proof.Machine

theorem step_live {s : State} (h : s.live) : step s = liveStep s := unlessFaulted_live h

theorem decodeSlot_ok {c : Config} {q : Slot} {i : Instr} {u : Bytes}
    (h : decode c (if q.command then .tidOut else .op) q.bytes = .ok (i, u)) : decodeSlot c q = .ok i := by
  simp only [decodeSlot, h]

/-- Outside a pass the step is the instruction of the next record that does not wait. -/
theorem step_of_nextRecord {s : State} {q : Slot} {rest : List Slot} {i : Instr} (hl : s.live)
    (hs : scanning s = false) (hn : nextRecord s s.pending = some (q, rest)) (hd : decodeSlot s.cfg q = .ok i) :
    step s = exec i { s with pending := rest } := by
  simp [step_live hl, liveStep, hs, hn, hd]

/-- Outside a pass and with no record that can run, the step is the polling thread's move. -/
theorem step_of_no_record {s : State} (hl : s.live) (hs : scanning s = false)
    (hn : nextRecord s s.pending = none) : step s = pollMove s := by
  simp [step_live hl, liveStep, hs, hn]

/-- The calls that wait for a join are the application's calls on the block (log entry 13). -/
theorem waitsForJoin_iff (i : Instr) : i.waitsForJoin = true ↔
    (∃ tid k, i = .registerType tid k) ∨ i = .setPacketHandler ∨ i = .setErrorHandler ∨ i = .start ∨ i = .stop ∨
      ∃ w, i = .createPacket w := by
  cases i <;> simp [Instr.waitsForJoin]

/-- Settles O4: outside a join the first record does not wait. -/
theorem stepRunsThePendingInstruction : Obligations.StepRunsThePendingInstruction := by
  intro s q rest i u hl hs hj hp hd
  refine step_of_nextRecord hl hs ?_ (decodeSlot_ok hd)
  rw [hp]
  exact nextRecord_head (held_of_no_join q hj)

/-- Settles O5: in a join the records that wait are passed over, so the next record is the first of the others, and where
there is none the polling thread moves. -/
theorem aStopHoldsTheApplicationsCalls : Obligations.AStopHoldsTheApplicationsCalls := by
  intro s a rest q i u hl hs hj waits hwaits
  have ha : ∀ x ∈ a, held s x = true := by
    intro x hx
    obtain ⟨j, v, hd, hw⟩ := hwaits x hx
    rw [held_eq (decodeSlot_ok hd), hj, (waitsForJoin_iff j).mpr hw]
    rfl
  have hpoll : s.pending = a → step s = pollMove s := fun hp =>
    step_of_no_record hl hs (hp ▸ nextRecord_all_held ha)
  refine ⟨fun hd hw hp => ?_, fun hp hi => ?_, fun hp hi hfree => ?_, fun hp hi => ?_⟩
  · have hq : held s q = false := by
      rw [held_eq (decodeSlot_ok hd), Bool.eq_false_iff.mpr (mt (waitsForJoin_iff i).mp hw), Bool.and_false]
    exact step_of_nextRecord hl hs (hp ▸ nextRecord_append ha hq) (decodeSlot_ok hd)
  · rw [hpoll hp, pollMove, hi]
    rfl
  · rw [hpoll hp, pollMove, hi]
    exact if_pos hfree
  · rw [hpoll hp, pollMove, hi]

end Sys2Proof.Machine

/-! ## What a step appends, and what it does not read

One walk over the instructions settles both O12 and O59. Two states that agree but for what no rule reads are compared:
`SameOutcome` says that the outcomes agree again and that both traces grow by the same entries. Growth alone is its case
of one state compared with itself. -/

namespace Sys2Proof.Machine

/-! ### What a move appends to the traces -/

/-- What a move that calls no handler, sends nothing, rejects nothing and sets no error handler leaves alone. -/
def ledger (s : State) : Config × Nat × HandlerReg × Option Nat × List Packet × List Bytes × List RejectReason :=
  (s.cfg, s.pollInterval, s.errHandler, s.handlerLeft, s.pktOut, s.txOut, s.rejLog)

/-- `u` is `s` with the packets `ps`, the frames `bs` and the reasons `rs` appended to the traces (R31, R32, R33): one
handler call is used up by each packet, the parameters and the poll interval stay. -/
structure Appends (s u : State) (ps : List Packet) (bs : List Bytes) (rs : List RejectReason) : Prop where
  cfg          : u.cfg = s.cfg
  pollInterval : u.pollInterval = s.pollInterval
  handlerLeft  : u.handlerLeft = s.handlerLeft.map (· - ps.length)
  pktOut       : u.pktOut = s.pktOut ++ ps
  txOut        : u.txOut = s.txOut ++ bs
  rejLog       : u.rejLog = s.rejLog ++ rs

theorem Appends.of_ledger {s u : State} (h : ledger u = ledger s) : Appends s u [] [] [] := by
  simp only [ledger, Prod.mk.injEq] at h
  obtain ⟨hc, hi, _, hl, hp, ht, hr⟩ := h
  exact ⟨hc, hi, by simp [hl], by simp [hp], by simp [ht], by simp [hr]⟩

theorem Appends.trans {s u w : State} {ps qs : List Packet} {bs cs : List Bytes} {rs es : List RejectReason}
    (h : Appends s u ps bs rs) (g : Appends u w qs cs es) : Appends s w (ps ++ qs) (bs ++ cs) (rs ++ es) where
  cfg := g.cfg.trans h.cfg
  pollInterval := g.pollInterval.trans h.pollInterval
  handlerLeft := by
    rw [g.handlerLeft, h.handlerLeft, Option.map_map, List.length_append]
    congr 1
    funext n
    exact Nat.sub_sub n _ _
  pktOut := by rw [g.pktOut, h.pktOut, List.append_assoc]
  txOut := by rw [g.txOut, h.txOut, List.append_assoc]
  rejLog := by rw [g.rejLog, h.rejLog, List.append_assoc]

theorem appends_emit (p : Packet) (s : State) : Appends s (emit p s) [p] [] [] :=
  ⟨rfl, rfl, rfl, rfl, (List.append_nil _).symm, (List.append_nil _).symm⟩

theorem appends_rejectHere (r : RejectReason) (s : State) : Appends s (rejectHere r s) [] [] [r] :=
  ⟨rfl, rfl, by simp, (List.append_nil _).symm, (List.append_nil _).symm, rfl⟩

theorem appends_transmit (b : Bytes) (s : State) : Appends s (transmit b s) [] [b] [] :=
  ⟨rfl, rfl, by simp, (List.append_nil _).symm, rfl, (List.append_nil _).symm⟩

theorem appends_setErrorHandler (s : State) : Appends s { s with errHandler := .set } [] [] [] :=
  ⟨rfl, rfl, by simp, (List.append_nil _).symm, (List.append_nil _).symm, (List.append_nil _).symm⟩

/-! ### States that agree but for what no rule reads -/

/-- What no operation reads: the transients (R271) and what `forgetUnread` forgets. -/
structure Unread where
  pos          : Nat
  work         : WorkRegs
  errHandler   : HandlerReg
  pollInterval : Nat
  pktOut       : List Packet
  txOut        : List Bytes
  rejLog       : List RejectReason

/-- `s` with other values in what no operation reads. -/
def State.withUnread (s : State) (x : Unread) : State :=
  { s with
    pos := x.pos, work := x.work, errHandler := x.errHandler, pollInterval := x.pollInterval, pktOut := x.pktOut,
    txOut := x.txOut, rejLog := x.rejLog }

/-- The two states are equal but for what no operation reads. -/
def Agree (s t : State) : Prop := forgetUnread (forgetTransients s) = forgetUnread (forgetTransients t)

theorem agree_withUnread (s : State) (x : Unread) : Agree s (s.withUnread x) := rfl

theorem window_withUnread {s : State} {x : Unread} (hp : s.pos = x.pos) : window (s.withUnread x) = window s :=
  congrArg s.rxbuf.drop hp.symm

theorem Agree.exists_withUnread {s t : State} (h : Agree s t) : ∃ x, t = s.withUnread x := by
  refine ⟨⟨t.pos, t.work, t.errHandler, t.pollInterval, t.pktOut, t.txOut, t.rejLog⟩, ?_⟩
  cases s
  cases t
  simp only [Agree, forgetUnread, forgetTransients, State.mk.injEq] at h
  simp [State.withUnread, h]

/-- Two moves, from `s` to `u` and from `t` to `v`, that end in agreement, append the same entries, and both keep or both
set the error handler. -/
structure SameMove (s t u v : State) : Prop where
  agree      : Agree u v
  appends    : ∃ ps bs rs, Appends s u ps bs rs ∧ Appends t v ps bs rs
  errHandler : u.errHandler = s.errHandler ∧ v.errHandler = t.errHandler ∨ u.errHandler = .set ∧ v.errHandler = .set

/-- Two moves that append nothing and leave the error handler. -/
theorem SameMove.quiet {s t u v : State} (h : Agree u v) (hs : ledger u = ledger s) (ht : ledger v = ledger t) :
    SameMove s t u v where
  agree := h
  appends := ⟨[], [], [], .of_ledger hs, .of_ledger ht⟩
  errHandler := by
    simp only [ledger, Prod.mk.injEq] at hs ht
    obtain ⟨_, _, es, _⟩ := hs
    obtain ⟨_, _, et, _⟩ := ht
    exact .inl ⟨es, et⟩

theorem SameMove.refl {s t : State} (h : Agree s t) : SameMove s t s t := .quiet h rfl rfl

theorem SameMove.trans {s t u v w z : State} (h : SameMove s t u v) (g : SameMove u v w z) : SameMove s t w z := by
  obtain ⟨_, ⟨ps, bs, rs, hu, hv⟩, he⟩ := h
  obtain ⟨hwz, ⟨qs, cs, es, gw, gz⟩, ge⟩ := g
  refine ⟨hwz, ⟨_, _, _, hu.trans gw, hv.trans gz⟩, ?_⟩
  rcases ge with ⟨gu, gv⟩ | ge
  · rwa [gu, gv]
  · exact .inr ge

theorem SameMove.raise {s t : State} (h : Agree s t) (f : FatalFault) :
    SameMove s t (Machine.raise f s) (Machine.raise f t) :=
  .quiet (congrArg (Machine.raise f) h) rfl rfl

theorem SameMove.returns {s t u v : State} (h : SameMove s t u v) (r : CallResult) :
    SameMove s t (Machine.returns r u) (Machine.returns r v) :=
  h.trans (.quiet (congrArg (Machine.returns r) h.agree) rfl rfl)

/-! ### Outcomes, and the combinators that operations are made of -/

/-- The two outcomes, of moves from `s` and from `t`, are the same but for what no operation reads. -/
inductive SameOutcome (s t : State) : Out → Out → Prop
  | next {u v : State} (h : SameMove s t u v) : SameOutcome s t (.next u) (.next v)
  | fault (f : Fault) : SameOutcome s t (.fault f) (.fault f)
  | refused (r : Refusal) : SameOutcome s t (.refused r) (.refused r)

theorem SameOutcome.mapNext_eq {s t : State} {o p : Out} (h : SameOutcome s t o p) :
    mapNext (fun u => forgetUnread (forgetTransients u)) o = mapNext (fun u => forgetUnread (forgetTransients u)) p := by
  cases h with
  | next h => exact congrArg Host.Outcome.next h.agree
  | fault f => rfl
  | refused r => rfl

theorem SameOutcome.sameMove {s t u v : State} (h : SameOutcome s t (.next u) (.next v)) : SameMove s t u v := by
  cases h with
  | next h => exact h

theorem SameOutcome.ite {p : Prop} [Decidable p] {s t : State} {k k' l l' : Out} (hk : p → SameOutcome s t k l)
    (hk' : ¬ p → SameOutcome s t k' l') : SameOutcome s t (if p then k else k') (if p then l else l') := by
  by_cases h : p
  · simpa only [if_pos h] using hk h
  · simpa only [if_neg h] using hk' h

theorem SameOutcome.orRaise {α : Type} {s t : State} {r : Except FatalFault α} {k l : α → State} (h : Agree s t)
    (hk : ∀ a, SameMove s t (k a) (l a)) : SameOutcome s t (orRaise s r k) (orRaise t r l) := by
  cases r with
  | ok a => exact .next (hk a)
  | error f => exact .next (.raise h f)

section
variable {s : State} {x : Unread}

theorem SameOutcome.unlessFaulted {k l : Out} (h : SameOutcome s (s.withUnread x) k l) :
    SameOutcome s (s.withUnread x) (unlessFaulted s k) (unlessFaulted (s.withUnread x) l) := by
  cases hf : s.faulted with
  | none => rwa [unlessFaulted_live hf, unlessFaulted_live (s := s.withUnread x) hf]
  | some f =>
    rw [unlessFaulted_faulted hf, unlessFaulted_faulted (s := s.withUnread x) hf]
    exact .fault _

/-- A fatal fault raised in both states. -/
theorem SameOutcome.raise (f : FatalFault) :
    SameOutcome s (s.withUnread x) (.next (Machine.raise f s)) (.next (Machine.raise f (s.withUnread x))) :=
  .next (.raise (agree_withUnread s x) f)

/-- An operation that computes one value of both states and returns it to its caller. -/
theorem SameOutcome.call {α : Type} (r : Except FatalFault α) (g : α → CallResult) :
    SameOutcome s (s.withUnread x) (Machine.unlessFaulted s (Machine.orRaise s r fun a => returns (g a) s))
      (Machine.unlessFaulted (s.withUnread x)
        (Machine.orRaise (s.withUnread x) r fun a => returns (g a) (s.withUnread x))) :=
  .unlessFaulted (.orRaise (agree_withUnread s x) fun a => (SameMove.refl (agree_withUnread s x)).returns (g a))

end

/-! ### The operations of the application and of the receive callback -/

section
variable (s : State) (x : Unread)

theorem execRegisterType_same (tid : Byte) (ctor : Kind) :
    SameOutcome s (s.withUnread x) (execRegisterType tid ctor s) (execRegisterType tid ctor (s.withUnread x)) := by
  refine .unlessFaulted (.ite (fun _ => .raise _) fun _ => ?_)
  rw [show (s.withUnread x).registry = s.registry from rfl]
  cases Registry.find s.registry tid with
  | some k => exact .raise _
  | none => exact .next (.quiet rfl rfl rfl)

theorem execSetPacketHandler_same :
    SameOutcome s (s.withUnread x) (execSetPacketHandler s) (execSetPacketHandler (s.withUnread x)) :=
  .unlessFaulted (.ite (fun _ => .next (.quiet rfl rfl rfl)) fun _ => .refused _)

theorem execSetErrorHandler_same :
    SameOutcome s (s.withUnread x) (execSetErrorHandler s) (execSetErrorHandler (s.withUnread x)) := by
  have hset : SameMove s (s.withUnread x) { s with errHandler := .set } { s.withUnread x with errHandler := .set } :=
    ⟨rfl, ⟨[], [], [], appends_setErrorHandler _, appends_setErrorHandler _⟩, .inr ⟨rfl, rfl⟩⟩
  exact .unlessFaulted (.ite (fun _ => .next (hset.returns .none)) fun _ => .refused _)

theorem execStart_same : SameOutcome s (s.withUnread x) (execStart s) (execStart (s.withUnread x)) :=
  .unlessFaulted (.ite (fun _ => .refused _) fun _ =>
    .ite (fun _ => .next (.quiet rfl rfl rfl)) fun _ => .next (.quiet rfl rfl rfl))

theorem execStop_same : SameOutcome s (s.withUnread x) (execStop s) (execStop (s.withUnread x)) :=
  .unlessFaulted (.ite (fun _ => .next (.quiet rfl rfl rfl)) fun _ => .next (.quiet rfl rfl rfl))

theorem execRxAppend_same (chunk : Bytes) :
    SameOutcome s (s.withUnread x) (execRxAppend chunk s) (execRxAppend chunk (s.withUnread x)) :=
  .unlessFaulted (.ite (fun _ => .next (.quiet rfl rfl rfl)) fun _ => .next (.quiet rfl rfl rfl))

/-- CREATE_PACKET's result is a function of the window (`createPacket_ok`), so it does not read the transients. -/
theorem execCreatePacket_same (w : Bytes) :
    SameOutcome s (s.withUnread x) (execCreatePacket w s) (execCreatePacket w (s.withUnread x)) := by
  refine .unlessFaulted ?_
  by_cases hw : w = []
  · subst hw
    exact .raise _
  · obtain ⟨r, hr⟩ := createPacket_ok s.cfg.crc s.registry w s.work hw
    obtain ⟨r', hr'⟩ := createPacket_ok s.cfg.crc s.registry w x.work hw
    rw [hr, show createPacket (s.withUnread x).cfg.crc (s.withUnread x).registry w (s.withUnread x).work = _ from hr']
    exact .next (.quiet rfl rfl rfl)

theorem execCrc16_same (bytes : Bytes) :
    SameOutcome s (s.withUnread x) (execCrc16 bytes s) (execCrc16 bytes (s.withUnread x)) :=
  .unlessFaulted (.next (.quiet rfl rfl rfl))

theorem execBuildFrame_same (n : Int) :
    SameOutcome s (s.withUnread x) (execBuildFrame n s) (execBuildFrame n (s.withUnread x)) :=
  .unlessFaulted (.orRaise (agree_withUnread s x) fun _ => .quiet rfl rfl rfl)

theorem execSend_same (f : Frame) :
    SameOutcome s (s.withUnread x) (execSend f s) (execSend f (s.withUnread x)) := by
  have hsend : SameMove s (s.withUnread x) (transmit f.buf s) (transmit f.buf (s.withUnread x)) :=
    ⟨rfl, ⟨[], [f.buf], [], appends_transmit _ _, appends_transmit _ _⟩, .inl ⟨rfl, rfl⟩⟩
  exact .unlessFaulted (.next (hsend.returns .none))

/-- Every encoder and every outbound row is a `command`. -/
theorem command_same {tid : Byte} {k : Kind} {nbytes v : Nat} :
    SameOutcome s (s.withUnread x) (command tid k nbytes v s) (command tid k nbytes v (s.withUnread x)) :=
  .call _ .packet

theorem execDecTelemetry_same (call : DecCall TelField) (f : Frame) :
    SameOutcome s (s.withUnread x) (execDecTelemetry call f s) (execDecTelemetry call f (s.withUnread x)) := by
  cases call with
  | construct => exact .unlessFaulted (.next (.quiet rfl rfl rfl))
  | access a => exact .call _ id

theorem execDecFwVersion_same (call : DecCall FwField) (f : Frame) :
    SameOutcome s (s.withUnread x) (execDecFwVersion call f s) (execDecFwVersion call f (s.withUnread x)) := by
  cases call with
  | construct => exact .unlessFaulted (.next (.quiet rfl rfl rfl))
  | access a => exact .call _ id

theorem execLoopTest_same : SameOutcome s (s.withUnread x) (execLoopTest s) (execLoopTest (s.withUnread x)) :=
  .unlessFaulted (.ite
    (fun _ => .ite (fun _ => .next (.quiet rfl rfl rfl)) fun _ => .next (.quiet rfl rfl rfl))
    fun _ => .refused _)

end

/-! ### The scan loop -/

/-- Two turns of the scan loop end in the same way, by moves that are the same and leave the same POS. -/
inductive SameTurn (s t : State) : Turn → Turn → Prop
  | again {u v : State} (h : SameMove s t u v) (hp : u.pos = v.pos) : SameTurn s t (.again u) (.again v)
  | leave {u v : State} (h : SameMove s t u v) (hp : u.pos = v.pos) : SameTurn s t (.leave u) (.leave v)
  | hung {u v : State} (h : SameMove s t u v) (hp : u.pos = v.pos) : SameTurn s t (.hung u) (.hung v)

theorem SameMove.passEnd {s t u v : State} (h : SameMove s t u v) (hp : u.pos = v.pos) :
    SameMove s t (Machine.passEnd u) (Machine.passEnd v) := by
  obtain ⟨⟨pos, work, errHandler, poll, pkt, tx, rej⟩, rfl⟩ := h.agree.exists_withUnread
  obtain rfl : u.pos = pos := hp
  exact h.trans (.quiet rfl rfl rfl)

theorem SameTurn.turnState {s t : State} {p q : Turn} (h : SameTurn s t p q) :
    SameMove s t (turnState p) (turnState q) := by
  cases h with
  | again h hp => exact h
  | leave h hp => exact h.passEnd hp
  | hung h hp => exact h

/-- What the scanner does with a result does not depend on what no operation reads, POS apart. -/
theorem settle_same (r : CreateResult) {s t u v : State} (h : SameMove s t u v) (hp : u.pos = v.pos) :
    SameTurn s t (settle r u) (settle r v) := by
  obtain ⟨x, rfl⟩ := h.agree.exists_withUnread
  cases r with
  | packet p =>
    have hemit : SameMove s t (emit p u) (emit p (u.withUnread x)) :=
      h.trans ⟨rfl, ⟨[p], [], [], appends_emit p u, appends_emit p _⟩, .inl ⟨rfl, rfl⟩⟩
    by_cases hr : u.handlerReturns = true
    · rw [settle, settle, if_pos hr, if_pos (show (u.withUnread x).handlerReturns = true from hr)]
      exact .again (hemit.trans (.quiet rfl rfl rfl)) (congrArg (· + p.frame.buf.length) hp)
    · rw [settle, settle, if_neg hr, if_neg (show ¬ (u.withUnread x).handlerReturns = true from hr)]
      exact .hung (hemit.trans (.quiet rfl rfl rfl)) hp
  | needMore k => exact .leave h hp
  | reject e =>
    have hreject : SameMove s t (rejectHere e u) (rejectHere e (u.withUnread x)) :=
      h.trans ⟨rfl, ⟨[], [], [e], appends_rejectHere e u, appends_rejectHere e _⟩, .inl ⟨rfl, rfl⟩⟩
    exact .again hreject (congrArg (· + 1) hp)

theorem turnState_settle_same (r : CreateResult) {s t u v : State} (h : SameMove s t u v) (hp : u.pos = v.pos) :
    SameMove s t (turnState (settle r u)) (turnState (settle r v)) :=
  (settle_same r h hp).turnState

theorem scanTurn_of_end {s : State} (h : window s = []) : scanTurn s = .ok (.leave s) := by
  simp only [scanTurn, h]

theorem scanTurn_of_skip {s : State} {b : Byte} {w : Bytes} (h : window s = b :: w)
    (hb : b ≠ SOF_SMALL ∧ b ≠ SOF_LARGE) : scanTurn s = .ok (.again (skipByte s)) := by
  simp only [scanTurn, h, if_pos hb]

theorem scanTurn_of_candidate {s : State} {b : Byte} {w : Bytes} (h : window s = b :: w)
    (hb : ¬ (b ≠ SOF_SMALL ∧ b ≠ SOF_LARGE)) :
    ∃ r, scanTurn s = .ok (settle (classify s.cfg.crc s.registry (b :: w)) (freeze { s with work := r })) := by
  obtain ⟨r, hr⟩ := createPacket_ok s.cfg.crc s.registry (b :: w) s.work (List.cons_ne_nil b w)
  refine ⟨r, ?_⟩
  simp only [scanTurn, h, if_neg hb, hr]
  rfl

/-- One turn of the scan loop reads POS, and nothing else that no operation reads. -/
theorem scanTurn_same {s t : State} (h : Agree s t) (hp : s.pos = t.pos) :
    ∃ p q, scanTurn s = .ok p ∧ scanTurn t = .ok q ∧ SameTurn s t p q := by
  obtain ⟨x, rfl⟩ := h.exists_withUnread
  have hw : window (s.withUnread x) = window s := window_withUnread hp
  cases hs : window s with
  | nil => exact ⟨_, _, scanTurn_of_end hs, scanTurn_of_end (hw.trans hs), .leave (.refl h) hp⟩
  | cons b w =>
    by_cases hb : b ≠ SOF_SMALL ∧ b ≠ SOF_LARGE
    · exact ⟨_, _, scanTurn_of_skip hs hb, scanTurn_of_skip (hw.trans hs) hb, .again (.quiet rfl rfl rfl)
        (congrArg (· + 1) hp)⟩
    · obtain ⟨r, hr⟩ := scanTurn_of_candidate hs hb
      obtain ⟨r', hr'⟩ := scanTurn_of_candidate (hw.trans hs) hb
      exact ⟨_, _, hr, hr', settle_same _ (.quiet rfl rfl rfl) hp⟩

/-- The scan loop from two states that agree, at the same POS: by induction on the fuel, turn by turn. -/
theorem scanLoop_same (n : Nat) {s t : State} (h : Agree s t) (hp : s.pos = t.pos) :
    ∃ u v, scanLoop n s = .ok u ∧ scanLoop n t = .ok v ∧ SameMove s t u v := by
  induction n generalizing s t with
  | zero => exact ⟨s, t, rfl, rfl, .refl h⟩
  | succ n ih =>
    obtain ⟨p, q, hs, ht, hturn⟩ := scanTurn_same h hp
    simp only [scanLoop, hs, ht, bind, Except.bind]
    cases hturn with
    | again hm hpos =>
      obtain ⟨u, v, hu, hv, hrest⟩ := ih hm.agree hpos
      exact ⟨u, v, hu, hv, hm.trans hrest⟩
    | leave hm hpos => exact ⟨_, _, rfl, rfl, hm.passEnd hpos⟩
    | hung hm hpos => exact ⟨_, _, rfl, rfl, hm⟩

/-- SCAN_PASS sets POS before it reads it, so an atomic pass does not depend on it. -/
theorem execScanPass_same (s : State) (x : Unread) :
    SameOutcome s (s.withUnread x) (execScanPass s) (execScanPass (s.withUnread x)) := by
  refine .unlessFaulted (.ite (fun _ => .refused _) fun _ => .ite (fun _ => .next (.refl rfl)) fun _ => ?_)
  have hbegin : SameMove s (s.withUnread x) (passBegin s) (passBegin (s.withUnread x)) := .quiet rfl rfl rfl
  obtain ⟨u, v, hu, hv, hloop⟩ := scanLoop_same (s.rxbuf.length + 1) hbegin.agree rfl
  rw [hu, show scanLoop ((s.withUnread x).rxbuf.length + 1) (passBegin (s.withUnread x)) = _ from hv]
  exact .next (hbegin.trans hloop)

/-! ### The wire rows, which stand at POS and go on from the registers -/

theorem inPassAt_same {sub : SubState} {s : State} {x : Unread} {k l : Out}
    (h : SameOutcome s (s.withUnread x) k l) :
    SameOutcome s (s.withUnread x) (inPassAt sub s k) (inPassAt sub (s.withUnread x) l) :=
  .unlessFaulted (.ite (fun _ => h) fun _ => .refused _)

section
variable (s : State) (x : Unread)

theorem candidate_same (sof : Byte) (lenb : Nat) (hp : s.pos = x.pos) (hw : s.work = x.work) :
    SameOutcome s (s.withUnread x) (candidate sof lenb s) (candidate sof lenb (s.withUnread x)) := by
  have hq : examine (s.withUnread x).cfg.crc sof lenb (window (s.withUnread x)) (s.withUnread x).work =
      examine s.cfg.crc sof lenb (window s) s.work := by
    rw [window_withUnread hp, show (s.withUnread x).work = s.work from hw.symm]
    rfl
  unfold candidate
  rw [hq]
  obtain ⟨r, verdict⟩ := examine s.cfg.crc sof lenb (window s) s.work
  cases verdict with
  | needMore k => exact .next (turnState_settle_same _ (.quiet rfl rfl rfl) hp)
  | reject e => exact .next (turnState_settle_same _ (.quiet rfl rfl rfl) hp)
  | valid => exact .next (.quiet rfl rfl rfl)

theorem lookUp_same (tid : Byte) (hp : s.pos = x.pos) (hw : s.work = x.work) :
    SameOutcome s (s.withUnread x) (lookUp tid s) (lookUp tid (s.withUnread x)) := by
  have hq : dispatch (s.withUnread x).registry (window (s.withUnread x)) tid (s.withUnread x).work =
      dispatch s.registry (window s) tid s.work := by
    rw [window_withUnread hp, show (s.withUnread x).work = s.work from hw.symm]
    rfl
  unfold lookUp
  rw [hq]
  exact .orRaise (agree_withUnread s x) fun q => turnState_settle_same q.2 (.quiet rfl rfl rfl) hp

end

/-! ### Every instruction -/

/-- From two states that agree every instruction has the same outcome, a wire row where POS and the registers agree too. -/
theorem exec_same {s t : State} (i : Instr) (h : Agree s t)
    (hwire : i.format = .sof ∨ i.format = .tidIn → s.pos = t.pos ∧ s.work = t.work) :
    SameOutcome s t (exec i s) (exec i t) := by
  obtain ⟨x, rfl⟩ := h.exists_withUnread
  cases i with
  | frameSmall | frameLarge =>
    obtain ⟨hp, hw⟩ := hwire (.inl rfl)
    exact inPassAt_same (candidate_same s x _ _ hp hw)
  | nonCandidate b => exact inPassAt_same (.next (.quiet rfl rfl rfl))
  | firmwareVersion | telemetry | unknownType _ =>
    obtain ⟨hp, hw⟩ := hwire (.inr rfl)
    exact inPassAt_same (lookUp_same s x _ hp hw)
  | requestFirmwareVersion | requestTelemetry | setDutyCycle _ | setCurrent _ | setCurrentBrake _ | setRPM _
  | setPosition _ | setServoPosition _ | encRequestFwVersion | encRequestTelemetry | encSetDutyCycle _
  | encSetCurrent _ | encSetCurrentBrake _ | encSetRpm _ | encSetPosition _ | encSetServoPosition _ =>
    exact command_same s x
  | registerType tid ctor => exact execRegisterType_same s x tid ctor
  | setPacketHandler => exact execSetPacketHandler_same s x
  | setErrorHandler => exact execSetErrorHandler_same s x
  | start => exact execStart_same s x
  | stop => exact execStop_same s x
  | rxAppend chunk => exact execRxAppend_same s x chunk
  | scanPass => exact execScanPass_same s x
  | createPacket w => exact execCreatePacket_same s x w
  | crc16 bytes => exact execCrc16_same s x bytes
  | buildFrame n => exact execBuildFrame_same s x n
  | sealFrame f => exact .call _ .frame
  | extractFrame raw off n => exact .call _ .frame
  | send f => exact execSend_same s x f
  | loopTest => exact execLoopTest_same s x
  | decTelemetry call f => exact execDecTelemetry_same s x call f
  | decFwVersion call f => exact execDecFwVersion_same s x call f

/-- Every instruction appends to the traces: its move compared with itself. -/
theorem exec_appends {s t : State} {i : Instr} (h : exec i s = .next t) : ∃ ps bs rs, Appends s t ps bs rs := by
  have hself := exec_same (t := s) i rfl fun _ => ⟨rfl, rfl⟩
  rw [h] at hself
  obtain ⟨ps, bs, rs, happ, _⟩ := hself.sameMove.appends
  exact ⟨ps, bs, rs, happ⟩

/-! ### Every step -/

/-- Everything a move inside a pass can be: the pass ends, the instruction on the wire runs, or there is none. -/
theorem scanMove_cases {s t : State} (h : scanMove s = .next t) :
    t = passEnd s ∨ (∃ i, fetchWire s = .ok i ∧ exec i s = .next t) ∨ ∃ f, t = raise f s := by
  unfold scanMove at h
  split_ifs at h
  · cases h
    exact .inl rfl
  · split at h
    · exact .inr (.inl ⟨_, ‹_›, h⟩)
    · cases h
      exact .inr (.inr ⟨_, rfl⟩)

/-- Everything the polling thread's move can be: LOOP_TEST, the begin of a pass, or a wait. -/
theorem pollMove_cases {s t : State} (h : pollMove s = .next t) :
    exec .loopTest s = .next t ∨ t = passBegin s ∨ t = s := by
  unfold pollMove at h
  split at h
  · exact .inl h
  · split_ifs at h <;> cases h
    · exact .inr (.inl rfl)
    · exact .inr (.inr rfl)
  · cases h
    exact .inr (.inr rfl)
  · cases h
    exact .inr (.inr rfl)

/-- Every step appends to the traces. -/
theorem step_appends {s t : State} (h : step s = .next t) : ∃ ps bs rs, Appends s t ps bs rs := by
  obtain ⟨_, ⟨_, h⟩ | ⟨_, q, rest, i, u, _, _, h⟩ | ⟨_, _, h⟩⟩ := step_cases h
  · obtain rfl | ⟨i, _, h⟩ | ⟨f, rfl⟩ := scanMove_cases h
    · exact ⟨_, _, _, .of_ledger rfl⟩
    · exact exec_appends h
    · exact ⟨_, _, _, .of_ledger rfl⟩
  · obtain ⟨ps, bs, rs, happ⟩ := exec_appends h
    have htake : Appends s { s with pending := rest } [] [] [] := .of_ledger rfl
    exact ⟨_, _, _, htake.trans happ⟩
  · obtain h | rfl | rfl := pollMove_cases h
    · exact exec_appends h
    · exact ⟨_, _, _, .of_ledger rfl⟩
    · exact ⟨_, _, _, .of_ledger rfl⟩

/-- Settles O12, by what every step appends. -/
theorem parametersStayAndTracesGrow : Obligations.ParametersStayAndTracesGrow := by
  intro s t h
  obtain ⟨ps, bs, rs, happ⟩ := step_appends h
  exact ⟨happ.cfg, happ.pollInterval, ⟨ps, happ.pktOut, happ.handlerLeft⟩, ⟨bs, happ.txOut.symm⟩,
    ⟨rs, happ.rejLog.symm⟩⟩

/-- Settles O59, by the outcomes of every instruction from two states that agree. -/
theorem unreadStateIsNeverRead : Obligations.UnreadStateIsNeverRead := by
  intro s t i hi hagree
  have hsame : SameOutcome s t (exec i s) (exec i t) := by
    refine exec_same i hagree fun hwire => ?_
    rcases hi with hi | hi <;> rw [hi] at hwire <;> simp at hwire
  refine ⟨hsame.mapNext_eq, fun u v hu hv => ?_⟩
  rw [hu, hv] at hsame
  obtain ⟨_, ⟨ps, bs, rs, hs, ht⟩, herr⟩ := hsame.sameMove
  exact ⟨⟨ps, hs.pktOut, ht.pktOut⟩, ⟨bs, hs.txOut, ht.txOut⟩, ⟨rs, hs.rejLog, ht.rejLog⟩,
    ⟨hs.pollInterval, ht.pollInterval⟩, herr⟩

end Sys2Proof.Machine

/-! ## The scanner's operations outside a pass, and what has no step -/

namespace Sys2Proof.Machine

/-- Every instruction has the common precondition of R170. -/
theorem exec_eq_unlessFaulted (i : Instr) (s : State) : ∃ k, exec i s = unlessFaulted s k := by
  cases i <;> exact ⟨_, rfl⟩

theorem inPassAt_refused {sub : SubState} {s : State} {k : Out} (hl : s.live)
    (h : s.scanState ≠ .inPass ∨ s.subState ≠ sub) : inPassAt sub s k = .refused .notEnabled := by
  rw [inPassAt, unlessFaulted_live hl, if_neg (by tauto)]

theorem scanning_of_not_inPass {s : State} (h : s.scanState ≠ .inPass) : scanning s = false := by
  simp [scanning, h]

section
variable {s : State} (hl : s.live)
include hl

theorem execScanPass_refused (h : s.scanState ≠ .armed) : exec .scanPass s = .refused .notEnabled :=
  (unlessFaulted_live hl).trans (if_pos h)

theorem execScanPass_waits (ha : s.scanState = .armed) (hlock : s.lock ≠ .free) : exec .scanPass s = .next s :=
  (unlessFaulted_live hl).trans <| (if_neg (not_not.mpr ha)).trans (if_pos hlock)

theorem execLoopTest_refused (h : s.scanState ≠ .idle) : exec .loopTest s = .refused .notEnabled :=
  (unlessFaulted_live hl).trans (if_neg h)

/-- With the run flag clear the loop ends at its test (R178). -/
theorem execLoopTest_ends (h : s.scanState = .idle) (hr : s.run = false) :
    exec .loopTest s = .next { s with scanState := .stopped, rxbuf := [], joinWait := false } :=
  (unlessFaulted_live hl).trans <| (if_pos h).trans (if_neg (Bool.eq_false_iff.mp hr))

end

/-- Settles O8: every instruction and the step have the precondition `FAULTED = NONE`. -/
theorem nothingRunsAfterAFatalFault : Obligations.NothingRunsAfterAFatalFault := by
  intro s f i hf
  obtain ⟨k, hk⟩ := exec_eq_unlessFaulted i s
  exact ⟨hk.trans (unlessFaulted_faulted hf), unlessFaulted_faulted hf⟩

/-- Settles O9: each value is the one `State.reset` holds. -/
theorem resetHoldsTheSpecsValues : Obligations.ResetHoldsTheSpecsValues :=
  ⟨rfl, rfl, rfl, rfl, fun _ => rfl, rfl, rfl, rfl, rfl, rfl, rfl, rfl, rfl⟩

/-- Settles O10: the loop is stopped, the lock free and every trace empty. -/
theorem resetMeetsTheInvariant : Obligations.ResetMeetsTheInvariant where
  registrySorted := reset_registry_wf
  stoppedNotRunning _ := rfl
  startedReady h := absurd rfl h
  lockInPass := by decide
  appendAtomic := by decide
  joinPending := by decide
  waitForPass h := absurd rfl h
  posInBuffer := by decide
  searchOutside _ := rfl
  stuckInHandler := by decide
  lookupReady h := absurd h (by decide)
  packetsLaidOut _ h := absurd h List.not_mem_nil

/-- Settles O7: with no record the step is the polling thread's move. -/
theorem stepPollsWhenNothingIsPending : Obligations.StepPollsWhenNothingIsPending := by
  intro s hl hp
  have hpoll (h : s.scanState ≠ .inPass) : step s = pollMove s :=
    step_of_no_record hl (scanning_of_not_inPass h) (by rw [hp]; rfl)
  refine ⟨fun h => ?_, fun h hlock => ?_, fun h => ?_⟩ <;> rw [hpoll (by simp [h]), pollMove, h]
  · rfl
  · exact if_pos hlock

/-- Settles O36, by the precondition of each operation. -/
theorem scannerStepsNeedTheirState : Obligations.ScannerStepsNeedTheirState := by
  intro s b hl
  exact ⟨execScanPass_refused hl, execScanPass_waits hl, execLoopTest_refused hl,
    fun h => ⟨inPassAt_refused hl h, inPassAt_refused hl h, inPassAt_refused hl h⟩,
    fun h => ⟨inPassAt_refused hl h, inPassAt_refused hl h, inPassAt_refused hl h⟩⟩

end Sys2Proof.Machine

/-! ## The steps of a pass

Inside a pass the step is a function of the window: `step_of_end`, `step_of_skip`, `step_of_candidate` and
`step_of_typeLookup` say which move each place makes. One turn of the scan loop is one of these moves, or the two of a
structurally valid candidate. -/

namespace Sys2Proof.Machine

/-! ### The instruction on the wire -/

/-- The scanner stands in a pass between two candidates. -/
structure Searching (s : State) : Prop where
  live      : s.faulted = none
  inPass    : s.scanState = .inPass
  subState  : s.subState = .search

/-- `b` begins a candidate with `lenb` length bytes (R145). -/
def SofByte (b : Byte) (lenb : Nat) : Prop := b = SOF_SMALL ∧ lenb = 1 ∨ b = SOF_LARGE ∧ lenb = 2

theorem exists_sofByte {b : Byte} (h : ¬ (b ≠ SOF_SMALL ∧ b ≠ SOF_LARGE)) : ∃ lenb, SofByte b lenb := by
  by_cases hb : b = SOF_SMALL
  · exact ⟨1, .inl ⟨hb, rfl⟩⟩
  · exact ⟨2, .inr ⟨by tauto, rfl⟩⟩

theorem SofByte.not_skipped {b : Byte} {lenb : Nat} (h : SofByte b lenb) : ¬ (b ≠ SOF_SMALL ∧ b ≠ SOF_LARGE) := by
  rcases h with ⟨h, _⟩ | ⟨h, _⟩ <;> simp [h]

theorem scanning_of_place {s : State} (hp : s.scanState = .inPass) (hs : s.subState ≠ .inHandler) :
    scanning s = true := by
  simp [scanning, hp, hs]

/-- Inside a pass, away from the buffer's end, the step is the instruction on the wire. -/
theorem step_of_fetchWire {s : State} {i : Instr} (hl : s.live) (hp : s.scanState = .inPass)
    (hs : s.subState ≠ .inHandler) (hend : ¬ (s.subState = .search ∧ s.rxbuf.length ≤ s.pos))
    (hi : fetchWire s = .ok i) : step s = exec i s := by
  simp only [step_live hl, liveStep, scanning_of_place hp hs, if_true, scanMove, if_neg hend, hi]

theorem step_of_end {s : State} (h : Searching s) (hw : window s = []) : step s = .next (passEnd s) := by
  have hend : s.subState = .search ∧ s.rxbuf.length ≤ s.pos := ⟨h.subState, by simpa [window] using hw⟩
  simp only [step_live h.live, liveStep, scanning_of_place h.inPass (by simp [h.subState]), if_true, scanMove,
    if_pos hend]

section
variable {s : State} {b : Byte} {w : Bytes}

/-- At a search the step is the SOF row of the byte at POS. -/
theorem step_of_sof {i : Instr} (h : Searching s) (hw : window s = b :: w) (hi : decodeSof (b :: w) = .ok (i, w)) :
    step s = exec i s := by
  have hpos := pos_lt_of_window hw
  refine step_of_fetchWire h.live h.inPass (by simp [h.subState]) (by omega) ?_
  simp only [fetchWire, h.subState, decode, hw, hi]

theorem step_of_skip (h : Searching s) (hw : window s = b :: w) (hb : b ≠ SOF_SMALL ∧ b ≠ SOF_LARGE) :
    step s = .next (skipByte s) := by
  rw [step_of_sof (i := .nonCandidate b) h hw (by rw [decodeSof, if_neg hb.1, if_neg hb.2])]
  exact inPassAt_live h.live h.inPass h.subState

theorem step_of_candidate {lenb : Nat} (h : Searching s) (hw : window s = b :: w) (hb : SofByte b lenb) :
    step s = candidate b lenb s := by
  rcases hb with ⟨rfl, rfl⟩ | ⟨rfl, rfl⟩
  · rw [step_of_sof (i := .frameSmall) h hw (by rw [decodeSof, if_pos rfl])]
    exact inPassAt_live h.live h.inPass h.subState
  · rw [step_of_sof (i := .frameLarge) h hw (by rw [decodeSof, if_neg (by decide), if_pos rfl])]
    exact inPassAt_live h.live h.inPass h.subState

/-- At a type lookup all three rows look up the byte they are fetched by (R151). -/
theorem step_of_typeLookup (hl : s.live) (hp : s.scanState = .inPass) (hs : s.subState = .typeLookup)
    (hw : s.rxbuf.drop (s.pos + s.work.hdr) = b :: w) : step s = lookUp b s := by
  have hstep {i : Instr} (hi : decodeTidIn s.cfg (b :: w) = .ok (i, w)) : step s = exec i s := by
    refine step_of_fetchWire hl hp (by simp [hs]) (by simp [hs]) ?_
    simp only [fetchWire, hs, decode, hw, hi]
  by_cases hfw : b = s.cfg.tidFwVersion
  · rw [hstep (i := .firmwareVersion) (by rw [decodeTidIn, if_pos hfw]), hfw]
    exact inPassAt_live hl hp hs
  by_cases htel : b = s.cfg.tidGetValues
  · rw [hstep (i := .telemetry) (by rw [decodeTidIn, if_neg hfw, if_pos htel]), htel]
    exact inPassAt_live hl hp hs
  · rw [hstep (i := .unknownType b) (by rw [decodeTidIn, if_neg hfw, if_neg htel])]
    exact inPassAt_live hl hp hs

end

/-! ### The type lookup of a structurally valid candidate -/

/-- The result for the candidate at POS whose place and size stand in the transient registers (R151, R152). -/
def lookUpResult (tid : Byte) (s : State) : CreateResult :=
  match Registry.find s.registry tid with
  | none => .reject .unknownType
  | some k => .packet ⟨⟨(window s).take s.work.total, s.work.hdr, s.work.n.toNat⟩, k⟩

/-- The state a type lookup ends in. -/
def afterLookUp (tid : Byte) (s : State) : State :=
  turnState (settle (lookUpResult tid s) { s with work := { s.work with tid := tid } })

theorem CandidateReady.total_le_window {s : State} (h : CandidateReady s.work s.pos s.rxbuf.length) :
    s.work.total ≤ (window s).length := by
  have := h.fits
  rw [window_length]
  omega

/-- The header of a ready candidate ends before the buffer does. -/
theorem CandidateReady.header_lt {r : WorkRegs} {pos len : Nat} (h : CandidateReady r pos len) : pos + r.hdr < len := by
  have := h.fits
  have := h.total
  have := h.some
  omega

/-- The type identifier of a ready candidate stands in the buffer. -/
theorem CandidateReady.exists_tid {s : State} (h : CandidateReady s.work s.pos s.rxbuf.length) :
    s.rxbuf.drop (s.pos + s.work.hdr) =
      byteAt (window s) s.work.hdr :: s.rxbuf.drop (s.pos + s.work.hdr + 1) := by
  have hlt := h.header_lt
  rw [List.drop_eq_getElem_cons hlt]
  simp [byteAt, window, hlt]

theorem dispatch_of_ready {s : State} (h : CandidateReady s.work s.pos s.rxbuf.length) (tid : Byte) :
    dispatch s.registry (window s) tid s.work = .ok ({ s.work with tid := tid }, lookUpResult tid s) :=
  dispatch_ready _ _ _ _ h.hdr h.some h.bound h.total h.total_le_window

theorem lookUp_of_ready {s : State} (h : CandidateReady s.work s.pos s.rxbuf.length) (tid : Byte) :
    lookUp tid s = .next (afterLookUp tid s) := by
  rw [lookUp, dispatch_of_ready h]
  rfl

/-- A ready candidate's step is its type lookup, which nothing in it can fault. -/
theorem step_of_ready {s : State} (hl : s.live) (hp : s.scanState = .inPass) (hs : s.subState = .typeLookup)
    (h : CandidateReady s.work s.pos s.rxbuf.length) :
    step s = .next (afterLookUp (byteAt (window s) s.work.hdr) s) := by
  rw [step_of_typeLookup hl hp hs h.exists_tid, lookUp_of_ready h]

/-! ### Steps 1 to 4 of CREATE_PACKET at the candidate at POS -/

/-- The registers and the verdict of steps 1 to 4 at POS. -/
def examined (sof : Byte) (lenb : Nat) (s : State) : WorkRegs × Verdict :=
  examine s.cfg.crc sof lenb (window s) s.work

/-- The state in which the scanner takes up a verdict: the registry is frozen (R142). -/
def examinedState (sof : Byte) (lenb : Nat) (s : State) : State :=
  freeze { s with work := (examined sof lenb s).1 }

/-- Where a structurally valid candidate goes on (R150). -/
def atTypeLookup (sof : Byte) (lenb : Nat) (s : State) : State :=
  { examinedState sof lenb s with subState := .typeLookup }

section
variable {s : State} {b : Byte} {w : Bytes} {lenb : Nat}

/-- A valid verdict leaves the registers describing the candidate (R148). -/
theorem candidateReady_of_valid (hw : window s = b :: w) (hb : SofByte b lenb)
    (hv : (examined b lenb s).2 = .valid) : CandidateReady (examined b lenb s).1 s.pos s.rxbuf.length := by
  have hagree := examine_agrees s.cfg.crc s.registry b lenb (window s) s.work (by rw [hw]; exact hb)
  rw [show (examine s.cfg.crc b lenb (window s) s.work).2 = .valid from hv] at hagree
  obtain ⟨⟨hhdr, hn, htotal⟩, hpos, hmax, hfits, _⟩ := hagree
  have hlen := window_length s
  have hlt := pos_lt_of_window hw
  exact ⟨hhdr ▸ headerSize_cases _, hn ▸ hpos, hn ▸ hmax, by rw [examined, htotal, hhdr, hn]; rfl,
    by rw [examined, htotal]; omega⟩

/-- CREATE_PACKET at a candidate is its steps 1 to 4 and what they conclude. -/
theorem createPacket_of_sof (hb : SofByte b lenb) (c : CrcParams) (reg : Registry) (r : WorkRegs) :
    createPacket c reg (b :: w) r = conclude reg (b :: w) (examine c b lenb (b :: w) r) := by
  have hne : SOF_LARGE ≠ SOF_SMALL := by decide
  rcases hb with ⟨rfl, rfl⟩ | ⟨rfl, rfl⟩ <;> simp [createPacket, hne]

theorem scanTurn_of_sof (hw : window s = b :: w) (hb : SofByte b lenb) :
    scanTurn s = (conclude s.registry (window s) (examined b lenb s)).map
      fun q => settle q.2 (freeze { s with work := q.1 }) := by
  rw [examined, hw]
  simp only [scanTurn, hw, if_neg hb.not_skipped, createPacket_of_sof hb]
  cases conclude s.registry (b :: w) (examine s.cfg.crc b lenb (b :: w) s.work) <;> rfl

/-- The result that steps 1 to 4 have already decided. -/
def Verdict.result? : Verdict → Option CreateResult
  | .needMore k => some (.needMore k)
  | .reject e => some (.reject e)
  | .valid => none

theorem Verdict.eq_valid : ∀ {v : Verdict}, v.result? = none → v = .valid
  | .valid, _ => rfl

theorem Verdict.result?_ne_packet {v : Verdict} {r : CreateResult} (h : v.result? = some r) (p : Packet) :
    r ≠ .packet p := by
  rintro rfl
  cases v <;> cases h

theorem conclude_of_result {reg : Registry} {q : WorkRegs × Verdict} {r : CreateResult}
    (hr : q.2.result? = some r) : conclude reg w q = .ok (q.1, r) := by
  obtain ⟨q, v⟩ := q
  cases v <;> cases hr <;> rfl

theorem candidate_of_result {r : CreateResult} (hr : (examined b lenb s).2.result? = some r) :
    candidate b lenb s = .next (turnState (settle r (examinedState b lenb s))) := by
  unfold candidate examinedState
  rw [show examine s.cfg.crc b lenb (window s) s.work = examined b lenb s from rfl]
  cases hv : (examined b lenb s).2 <;> rw [hv] at hr <;> cases hr <;> simp only [hv]

theorem candidate_of_valid (hv : (examined b lenb s).2 = .valid) :
    candidate b lenb s = .next (atTypeLookup b lenb s) := by
  unfold candidate
  rw [show examine s.cfg.crc b lenb (window s) s.work = examined b lenb s from rfl]
  simp only [hv]
  rfl

theorem scanTurn_of_result {r : CreateResult} (hw : window s = b :: w) (hb : SofByte b lenb)
    (hr : (examined b lenb s).2.result? = some r) : scanTurn s = .ok (settle r (examinedState b lenb s)) := by
  rw [scanTurn_of_sof hw hb, conclude_of_result hr]
  rfl

end

/-! ### One turn of the scan loop as steps -/

/-- A result that ends a candidate puts the scanner back to the search, or into the handler. -/
theorem settle_lookUpResult_subState (tid : Byte) (s u : State) (p : SubState) :
    settle (lookUpResult tid s) { u with subState := p } = settle (lookUpResult tid s) u := by
  unfold lookUpResult
  cases Registry.find s.registry tid <;> rfl

/-- The two steps of a structurally valid candidate are one turn. -/
theorem scanTurn_of_valid {s : State} {b : Byte} {w : Bytes} {lenb : Nat} (hw : window s = b :: w)
    (hb : SofByte b lenb) (hv : (examined b lenb s).2 = .valid) :
    ∃ q, scanTurn s = .ok q ∧
      turnState q = afterLookUp (byteAt (window s) (examined b lenb s).1.hdr) (atTypeLookup b lenb s) := by
  have hready : CandidateReady (atTypeLookup b lenb s).work (atTypeLookup b lenb s).pos
      (atTypeLookup b lenb s).rxbuf.length := candidateReady_of_valid hw hb hv
  have hdispatch := dispatch_of_ready hready (byteAt (window s) (examined b lenb s).1.hdr)
  have hconclude : conclude s.registry (window s) (examined b lenb s) =
      dispatch s.registry (window s) (byteAt (window s) (examined b lenb s).1.hdr) (examined b lenb s).1 := by
    conv_lhs => rw [← Prod.mk.eta (p := examined b lenb s), hv]
    rfl
  refine ⟨_, by rw [scanTurn_of_sof hw hb, hconclude]; exact congrArg (Except.map _) hdispatch, ?_⟩
  exact congrArg turnState (settle_lookUpResult_subState _ _ (freeze { s with work := _ }) .typeLookup).symm

/-- Each turn of the scan loop is a run of the machine's own steps. -/
theorem scanTurn_run {s : State} (h : Searching s) :
    ∃ q k, scanTurn s = .ok q ∧ Sys2Proof.core.run k s = .next (turnState q) := by
  have one {q : Turn} (ht : scanTurn s = .ok q) (hs : step s = .next (turnState q)) :
      ∃ q k, scanTurn s = .ok q ∧ Sys2Proof.core.run k s = .next (turnState q) := ⟨q, 1, ht, run_succ hs⟩
  cases hw : window s with
  | nil => exact one (scanTurn_of_end hw) (step_of_end h hw)
  | cons b w =>
    by_cases hb : b ≠ SOF_SMALL ∧ b ≠ SOF_LARGE
    · exact one (scanTurn_of_skip hw hb) (step_of_skip h hw hb)
    obtain ⟨lenb, hb⟩ := exists_sofByte hb
    have hstep := step_of_candidate h hw hb
    cases hr : (examined b lenb s).2.result? with
    | some r => exact one (scanTurn_of_result hw hb hr) (hstep.trans (candidate_of_result hr))
    | none =>
      have hv := Verdict.eq_valid hr
      obtain ⟨q, ht, hq⟩ := scanTurn_of_valid hw hb hv
      have hready : CandidateReady (atTypeLookup b lenb s).work (atTypeLookup b lenb s).pos
        (atTypeLookup b lenb s).rxbuf.length := candidateReady_of_valid hw hb hv
      have hlook : step (atTypeLookup b lenb s) = .next (turnState q) :=
        hq ▸ step_of_ready h.live h.inPass rfl hready
      exact ⟨q, 2, ht, (run_succ (hstep.trans (candidate_of_valid hv))).trans (run_succ hlook)⟩

theorem searching_of_settle {r : CreateResult} {s u : State} (h : Searching s) (hu : settle r s = .again u) :
    Searching u := by
  rcases settle_cases r s with ⟨p, _, _, e⟩ | ⟨p, _, _, e⟩ | ⟨k, _, e⟩ | ⟨k, _, e⟩ <;> rw [e] at hu <;> cases hu
  · exact ⟨h.live, h.inPass, rfl⟩
  · exact ⟨h.live, h.inPass, rfl⟩

/-- A turn that goes on leaves the scanner searching. -/
theorem searching_of_scanTurn {s u : State} (h : Searching s) (ht : scanTurn s = .ok (.again u)) : Searching u := by
  rcases scanTurn_cases s with ⟨_, hq⟩ | ⟨b, w, _, ⟨_, _, hq⟩ | ⟨_, r, hq⟩⟩ <;> rw [hq, Except.ok.injEq] at ht
  · cases ht
  · cases ht
    exact ⟨h.live, h.inPass, h.subState⟩
  · exact searching_of_settle (s := freeze { s with work := r }) ⟨h.live, h.inPass, h.subState⟩ ht

/-- The scan loop is a run of the machine's own steps, by induction on its turns. -/
theorem scanLoop_run (n : Nat) {s : State} (h : Searching s) :
    ∃ t k, scanLoop n s = .ok t ∧ Sys2Proof.core.run k s = .next t := by
  induction n generalizing s with
  | zero => exact ⟨s, 0, rfl, rfl⟩
  | succ n ih =>
    obtain ⟨q, k, ht, hrun⟩ := scanTurn_run h
    simp only [scanLoop, ht, bind, Except.bind]
    cases q with
    | again u =>
      obtain ⟨t, j, hloop, hrest⟩ := ih (searching_of_scanTurn h ht)
      exact ⟨t, k + j, hloop, run_trans hrun hrest⟩
    | leave u => exact ⟨_, k, rfl, hrun⟩
    | hung u => exact ⟨_, k, rfl, hrun⟩

theorem searching_passBegin {s : State} (hl : s.live) : Searching (passBegin s) := ⟨hl, rfl, rfl⟩

/-- A pass that takes the lock completes in the state its scan loop ends in. -/
theorem execScanPass_of_loop {s t : State} (hl : s.live) (ha : s.scanState = .armed) (hlock : s.lock = .free)
    (ht : scanLoop (s.rxbuf.length + 1) (passBegin s) = .ok t) : exec .scanPass s = .next t := by
  have h : exec .scanPass s = orRaise s (scanLoop (s.rxbuf.length + 1) (passBegin s)) id :=
    (unlessFaulted_live hl).trans <| (if_neg (not_not.mpr ha)).trans (if_neg (not_not.mpr hlock))
  rw [h, ht]
  rfl

/-- Settles O34: the first step begins the pass and the scan loop is a run of steps. -/
theorem atomicPassIsTheStepwisePass : Obligations.AtomicPassIsTheStepwisePass := by
  intro s t hp ha hlock h
  have hl : s.live := (execScanPass_cases h).1
  have hbegin : step s = .next (passBegin s) := (stepPollsWhenNothingIsPending s hl hp).2.1 ha hlock
  obtain ⟨u, k, hloop, hrun⟩ := scanLoop_run (s.rxbuf.length + 1) (searching_passBegin hl)
  obtain rfl : u = t := Host.Outcome.next.inj ((execScanPass_of_loop hl ha hlock hloop).symm.trans h)
  exact ⟨k + 1, (run_succ hbegin).trans hrun⟩

end Sys2Proof.Machine

/-! ## What an instruction does to the block

Most instructions leave the scanner, the buffer, the registry and the handler alone (`exec_quiet`). The others are the
block's own operations and the wire rows, each of which keeps the invariant by a lemma of its own. -/

namespace Sys2Proof.Machine

/-! ### The quiet instructions -/

/-- What an instruction that is none of the block's own operations leaves alone. -/
def block (s : State) : Memory × Lock × Nat × ScanState × Bool × Registry × HandlerReg × List Packet × SubState ×
    Option Nat × List Bytes × Bool :=
  (s.rxbuf, s.lock, s.pos, s.scanState, s.run, s.registry, s.pktHandler, s.pktOut, s.subState, s.handlerLeft, s.rxWait,
    s.joinWait)

/-- `t` is `s` but for a result, an output, a count or a transient; the registry may have been frozen. -/
structure Quiet (s t : State) : Prop where
  block  : block t = block s
  frozen : s.regFrozen = true → t.regFrozen = true

theorem Quiet.raise (f : FatalFault) (s : State) : Quiet s (Machine.raise f s) := ⟨rfl, id⟩

theorem Quiet.orRaise {α : Type} {s t : State} {r : Except FatalFault α} {k : α → State}
    (h : orRaise s r k = .next t) (hk : ∀ a, Quiet s (k a)) : Quiet s t := by
  obtain ⟨a, _, rfl⟩ | ⟨f, _, rfl⟩ := orRaise_next h
  · exact hk a
  · exact .raise f s

/-- A call that computes a value and gives it to its caller. -/
theorem Quiet.call {α : Type} {s t : State} {r : Except FatalFault α} {g : α → CallResult}
    (h : unlessFaulted s (Machine.orRaise s r fun a => returns (g a) s) = .next t) : Quiet s t :=
  .orRaise (unlessFaulted_next h).2 fun _ => ⟨rfl, id⟩

/-- The block's own operations: those of start-up, of the connection and of the scanner, and the wire rows. -/
def actsOnBlock : Instr → Bool
  | .registerType _ _ | .setPacketHandler | .start | .stop | .rxAppend _ | .scanPass | .loopTest
  | .frameSmall | .frameLarge | .nonCandidate _ | .firmwareVersion | .telemetry | .unknownType _ => true
  | _ => false

/-- Everything an instruction can do that is none of the block's own operations. -/
theorem exec_quiet {i : Instr} {s t : State} (hi : actsOnBlock i = false) (h : exec i s = .next t) :
    Quiet s t := by
  cases i with
  | registerType _ _ | setPacketHandler | start | stop | rxAppend _ | scanPass | loopTest | frameSmall | frameLarge
  | nonCandidate _ | firmwareVersion | telemetry | unknownType _ => cases hi
  | requestFirmwareVersion | requestTelemetry | setDutyCycle _ | setCurrent _ | setCurrentBrake _ | setRPM _
  | setPosition _ | setServoPosition _ | encRequestFwVersion | encRequestTelemetry | encSetDutyCycle _
  | encSetCurrent _ | encSetCurrentBrake _ | encSetRpm _ | encSetPosition _ | encSetServoPosition _ =>
    exact .call (g := .packet) h
  | sealFrame _ | extractFrame _ _ _ => exact .call (g := .frame) h
  | createPacket w => exact .orRaise (unlessFaulted_next h).2 fun _ => ⟨rfl, fun _ => rfl⟩
  | buildFrame n => exact .orRaise (unlessFaulted_next h).2 fun _ => ⟨rfl, id⟩
  | crc16 _ | send _ =>
    cases (unlessFaulted_next h).2
    exact ⟨rfl, id⟩
  | setErrorHandler =>
    have h := (unlessFaulted_next h).2
    split_ifs at h
    cases h
    exact ⟨rfl, id⟩
  | decTelemetry call f =>
    cases call with
    | construct =>
      cases (unlessFaulted_next h).2
      exact ⟨rfl, id⟩
    | access a => exact .call (g := id) h
  | decFwVersion call f =>
    cases call with
    | construct =>
      cases (unlessFaulted_next h).2
      exact ⟨rfl, id⟩
    | access a => exact .call (g := id) h

/-- A quiet move keeps the invariant; where a type lookup is to come, its candidate must still be described. -/
theorem Inv.of_quiet {s t : State} (h : Inv s) (hq : Quiet s t)
    (hw : s.subState = .typeLookup → CandidateReady t.work s.pos s.rxbuf.length) : Inv t := by
  obtain ⟨hblock, hfrozen⟩ := hq
  cases s
  cases t
  simp only [block, Prod.mk.injEq] at hblock
  obtain ⟨rfl, rfl, rfl, rfl, rfl, rfl, rfl, rfl, rfl, rfl, rfl, rfl⟩ := hblock
  exact
    { h with
      startedReady := fun hs => ⟨(h.startedReady hs).1, hfrozen (h.startedReady hs).2⟩
      lookupReady := hw }

/-! ### The operations outside a pass keep the invariant -/

section
variable {s t : State} (h : Inv s)
include h

/-- A type lookup stands only inside a pass. -/
theorem Inv.not_typeLookup (hp : s.scanState ≠ .inPass) : s.subState ≠ .typeLookup := by
  simp [h.searchOutside hp]

theorem Inv.raise (f : FatalFault) : Inv (Machine.raise f s) := { h with }

theorem Inv.returns (r : CallResult) : Inv (Machine.returns r s) := { h with }

theorem Inv.registerType {tid : Byte} {k : Kind} (e : exec (.registerType tid k) s = .next t) : Inv t := by
  have hsorted := execRegisterType_registry_wf h.registrySorted e
  have e := (unlessFaulted_next e).2
  split at e
  · cases e
    exact h.raise _
  · split at e <;> cases e
    · exact h.raise _
    · exact { h with registrySorted := hsorted }

theorem Inv.setPacketHandler (e : exec .setPacketHandler s = .next t) : Inv t := by
  have e := (unlessFaulted_next e).2
  split_ifs at e with hs
  cases e
  exact { h with startedReady := fun hne => absurd hs hne }

/-- A stopped scanner has no lock to release and no join to wait in, so a fresh loop starts clean (R183). -/
theorem Inv.start (e : exec .start s = .next t) : Inv t := by
  have e := (unlessFaulted_next e).2
  split_ifs at e with hunset hrunning <;> cases e
  · exact h.returns _
  · have hstopped : s.scanState = .stopped := not_not.mp hrunning
    have hset : s.pktHandler = .set := by
      cases hp : s.pktHandler with
      | unset => exact absurd hp hunset
      | set => rfl
    exact
      { h with
        stoppedNotRunning := nofun
        startedReady := fun _ => ⟨hset, rfl⟩
        lockInPass := h.lockInPass.trans (by simp [hstopped])
        joinPending := fun hj => absurd hstopped (h.joinPending hj).1
        posInBuffer := nofun
        searchOutside := fun _ => h.searchOutside (by simp [hstopped])
        lookupReady := fun hl => absurd hl (h.not_typeLookup (by simp [hstopped])) }

theorem Inv.stop (e : exec .stop s = .next t) : Inv t := by
  have e := (unlessFaulted_next e).2
  split_ifs at e with hs <;> cases e
  · exact h.returns _
  · exact { h with stoppedNotRunning := fun _ => rfl, joinPending := fun _ => ⟨hs, rfl⟩ }

theorem Inv.rxAppend {chunk : Bytes} (e : exec (.rxAppend chunk) s = .next t) : Inv t := by
  have e := (unlessFaulted_next e).2
  split_ifs at e with hlock <;> cases e
  · have hout : s.scanState ≠ .inPass := by simp [← h.lockInPass, hlock]
    exact
      { h with
        posInBuffer := fun hp => absurd hp hout
        lookupReady := fun hl => absurd hl (h.not_typeLookup hout) }
  · have hheld : s.lock = .heldScan := by
      cases hl : s.lock with
      | free => exact absurd hl hlock
      | heldRx => exact absurd hl h.appendAtomic
      | heldScan => rfl
    exact { h with waitForPass := fun _ => hheld }

theorem Inv.loopTest (e : exec .loopTest s = .next t) : Inv t := by
  have e := (unlessFaulted_next e).2
  split_ifs at e with hidle hrun <;> cases e
  · exact
      { h with
        stoppedNotRunning := nofun
        startedReady := fun _ => h.startedReady (by simp [hidle])
        lockInPass := h.lockInPass.trans (by simp [hidle])
        joinPending := fun hj => ⟨nofun, (h.joinPending hj).2⟩
        posInBuffer := nofun
        searchOutside := fun _ => h.searchOutside (by simp [hidle]) }
  · exact
      { h with
        stoppedNotRunning := fun _ => by simpa using hrun
        startedReady := fun hne => absurd rfl hne
        lockInPass := h.lockInPass.trans (by simp [hidle])
        joinPending := nofun
        posInBuffer := nofun
        searchOutside := fun _ => h.searchOutside (by simp [hidle])
        lookupReady := fun hl => absurd hl (h.not_typeLookup (by simp [hidle])) }

end

/-! ### The moves of a pass keep the invariant -/

/-- A packet whose frame is laid out, with a payload, and lies in the window at POS (R128, R174). -/
structure FitsWindow (p : Packet) (s : State) : Prop where
  laidOut : p.frame.laidOut
  payload : 1 ≤ p.frame.payLen
  inside  : p.frame.buf.length ≤ (window s).length

theorem fitsWindow_of_classify {s : State} {p : Packet}
    (h : classify s.cfg.crc s.registry (window s) = .packet p) : FitsWindow p s := by
  obtain ⟨hframe, _, hpos, hmax⟩ := classify_packet h
  obtain ⟨hlen, hinside, _⟩ := classify_packet_length h
  refine ⟨⟨?_, ?_, ?_⟩, ?_, hinside⟩
  · rw [hframe]
    exact headerSize_cases _
  · rwa [hframe]
  · rw [hlen, hframe]
    rfl
  · rwa [hframe]

theorem fitsWindow_of_lookUpResult {tid : Byte} {s : State} {p : Packet}
    (hready : CandidateReady s.work s.pos s.rxbuf.length) (h : lookUpResult tid s = .packet p) : FitsWindow p s := by
  have hin := hready.total_le_window
  have hlen : ((window s).take s.work.total).length = s.work.total := by simp [hin]
  unfold lookUpResult at h
  split at h <;> cases h
  exact ⟨⟨hready.hdr, hready.bound, hlen.trans hready.total⟩, hready.some, hlen.trans_le hin⟩

theorem traceLaidOut_append {l : List Packet} {p : Packet} (hl : TraceLaidOut l) (hp : p.frame.laidOut)
    (hn : 1 ≤ p.frame.payLen) : TraceLaidOut (l ++ [p]) := by
  intro q hq
  rcases List.mem_append.mp hq with hq | hq
  · exact hl q hq
  · rw [List.mem_singleton.mp hq]
    exact ⟨hp, hn⟩

theorem Inv.passBegin {s : State} (h : Inv s) (ha : s.scanState = .armed) : Inv (Machine.passBegin s) :=
  { h with
    stoppedNotRunning := nofun
    startedReady := fun _ => h.startedReady (by simp [ha])
    lockInPass := by simp
    appendAtomic := nofun
    joinPending := fun hj => ⟨nofun, (h.joinPending hj).2⟩
    waitForPass := fun _ => rfl
    posInBuffer := fun _ => Nat.zero_le _
    searchOutside := fun hne => absurd rfl hne
    stuckInHandler := nofun
    lookupReady := nofun }

/-- POS moves on inside the buffer and the search goes on there. -/
theorem Inv.searchFrom {s : State} {n : Nat} (h : Inv s) (hn : n ≤ s.rxbuf.length) :
    Inv { s with pos := n, subState := .search } :=
  { h with
    posInBuffer := fun _ => hn
    searchOutside := fun _ => rfl
    stuckInHandler := nofun
    lookupReady := nofun }

theorem Inv.skipByte {s : State} (h : Inv s) (hlt : s.pos < s.rxbuf.length) (hs : s.subState = .search) :
    Inv (Machine.skipByte s) := by
  have := h.searchFrom (n := s.pos + 1) hlt
  rw [← hs] at this
  exact this

theorem Inv.rejectHere {s : State} (h : Inv s) (e : RejectReason) (hlt : s.pos < s.rxbuf.length) :
    Inv (Machine.rejectHere e s) :=
  { h.searchFrom (n := s.pos + 1) hlt with }

section
variable {s : State} (h : Inv s) (hp : s.scanState = .inPass)
include h hp

theorem Inv.passEnd : Inv (Machine.passEnd s) :=
  { h with
    stoppedNotRunning := nofun
    startedReady := fun _ => h.startedReady (by simp [hp])
    lockInPass := by simp
    appendAtomic := nofun
    joinPending := fun hj => ⟨nofun, (h.joinPending hj).2⟩
    waitForPass := fun hne => absurd rfl hne
    posInBuffer := nofun
    searchOutside := fun _ => rfl
    stuckInHandler := nofun
    lookupReady := nofun }

theorem Inv.afterPacket {p : Packet} (hfit : FitsWindow p s) : Inv (Machine.afterPacket p s) := by
  have hn : s.pos + p.frame.buf.length ≤ s.rxbuf.length := by
    have := hfit.inside
    have := h.posInBuffer hp
    rw [window_length] at *
    omega
  exact
    { h.searchFrom hn with
      stuckInHandler := nofun
      packetsLaidOut := traceLaidOut_append h.packetsLaidOut hfit.laidOut hfit.payload }

theorem Inv.inHandlerOf {p : Packet} (hfit : FitsWindow p s) (hr : s.handlerReturns = false) :
    Inv (Machine.inHandlerOf p s) := by
  have hleft : s.handlerLeft = some 0 := by simpa [State.handlerReturns] using hr
  exact
    { h with
      searchOutside := fun hne => absurd hp hne
      stuckInHandler := fun _ => ⟨by simp [Machine.inHandlerOf, hleft], by simp [Machine.inHandlerOf]⟩
      lookupReady := nofun
      packetsLaidOut := traceLaidOut_append h.packetsLaidOut hfit.laidOut hfit.payload }

/-- Whatever the scanner does with a result keeps the invariant. -/
theorem Inv.settle {r : CreateResult} (hlt : s.pos < s.rxbuf.length)
    (hr : ∀ p, r = .packet p → FitsWindow p s) : Inv (turnState (Machine.settle r s)) := by
  obtain ⟨p, hp', _, e⟩ | ⟨p, hp', hret, e⟩ | ⟨k, _, e⟩ | ⟨k, _, e⟩ := settle_cases r s <;> rw [e]
  · exact h.afterPacket hp (hr p hp')
  · exact h.inHandlerOf hp (hr p hp') hret
  · exact h.passEnd hp
  · exact h.rejectHere k hlt

end

/-- The registers may change and the registry freeze while the scanner searches. -/
theorem Inv.examinedAt {s : State} (h : Inv s) (hs : s.subState = .search) (r : WorkRegs) :
    Inv (freeze { s with work := r }) :=
  h.of_quiet ⟨rfl, fun _ => rfl⟩ (by simp [hs])

/-- A structurally valid candidate goes on to its type lookup. -/
theorem Inv.atTypeLookup {s : State} {b : Byte} {w : Bytes} {lenb : Nat} (h : Inv s) (hs : Searching s)
    (hw : window s = b :: w) (hb : SofByte b lenb) (hv : (examined b lenb s).2 = .valid) :
    Inv (Machine.atTypeLookup b lenb s) :=
  { h.examinedAt hs.subState (examined b lenb s).1 with
    searchOutside := fun hne => absurd hs.inPass hne
    stuckInHandler := nofun
    lookupReady := fun _ => candidateReady_of_valid hw hb hv }

/-- The scan loop keeps the invariant, turn by turn. -/
theorem Inv.scanPass {s t : State} (h : Inv s) (e : exec .scanPass s = .next t) : Inv t := by
  obtain ⟨hl, ha, ⟨_, rfl⟩ | ⟨hlock, _⟩⟩ := execScanPass_cases e
  · exact h
  obtain ⟨u, hloop, hu⟩ := scanLoop_induct (P := fun u => Inv u ∧ Searching u) (Q := Inv)
    (stop := fun u hu _ => hu.1.passEnd hu.2.inPass)
    (skip := fun u b w hu hw _ _ =>
      ⟨hu.1.skipByte (pos_lt_of_window hw) hu.2.subState, hu.2.live, hu.2.inPass, hu.2.subState⟩)
    (packet := fun u r p hu hc _ =>
      ⟨(hu.1.examinedAt hu.2.subState r).afterPacket hu.2.inPass (fitsWindow_of_classify hc),
        hu.2.live, hu.2.inPass, rfl⟩)
    (hang := fun u r p hu hc hr =>
      (hu.1.examinedAt hu.2.subState r).inHandlerOf hu.2.inPass (fitsWindow_of_classify hc) hr)
    (wait := fun u r _ _ _ hu _ _ _ => (hu.1.examinedAt hu.2.subState r).passEnd hu.2.inPass)
    (reject := fun u r b w k hu hw _ _ =>
      ⟨(hu.1.examinedAt hu.2.subState r).rejectHere k (pos_lt_of_window hw),
        hu.2.live, hu.2.inPass, rfl⟩)
    _ _ ⟨h.passBegin ha, searching_passBegin hl⟩ (passBegin_window_length s)
  cases (execScanPass_of_loop hl ha hlock hloop).symm.trans e
  exact hu

/-! ### Every step keeps the invariant -/

/-- Every operation keeps the invariant, where no type lookup is to come. -/
theorem Inv.exec {i : Instr} {s t : State} (h : Inv s) (hs : s.subState ≠ .typeLookup)
    (hi : i.format = .op ∨ i.format = .tidOut) (e : exec i s = .next t) : Inv t := by
  cases i with
  | frameSmall | frameLarge | nonCandidate _ | firmwareVersion | telemetry | unknownType _ => simp [Instr.format] at hi
  | registerType tid k => exact h.registerType e
  | setPacketHandler => exact h.setPacketHandler e
  | start => exact h.start e
  | stop => exact h.stop e
  | rxAppend chunk => exact h.rxAppend e
  | scanPass => exact h.scanPass e
  | loopTest => exact h.loopTest e
  | _ => exact h.of_quiet (exec_quiet rfl e) fun hl => absurd hl hs

/-- A move of the scanner inside a pass keeps the invariant. -/
theorem Inv.step_searching {s t : State} (h : Inv s) (hs : Searching s) (e : step s = .next t) : Inv t := by
  cases hw : window s with
  | nil =>
    cases (step_of_end hs hw).symm.trans e
    exact h.passEnd hs.inPass
  | cons b w =>
    have hlt := pos_lt_of_window hw
    by_cases hb : b ≠ SOF_SMALL ∧ b ≠ SOF_LARGE
    · cases (step_of_skip hs hw hb).symm.trans e
      exact h.skipByte hlt hs.subState
    obtain ⟨lenb, hb⟩ := exists_sofByte hb
    have hstep := (step_of_candidate hs hw hb).symm.trans e
    cases hr : (examined b lenb s).2.result? with
    | some r =>
      cases (candidate_of_result hr).symm.trans hstep
      exact (h.examinedAt hs.subState _).settle hs.inPass hlt fun p hp => absurd hp (Verdict.result?_ne_packet hr p)
    | none =>
      cases (candidate_of_valid (Verdict.eq_valid hr)).symm.trans hstep
      exact h.atTypeLookup hs hw hb (Verdict.eq_valid hr)

theorem Inv.step_typeLookup {s t : State} (h : Inv s) (hl : s.live) (hp : s.scanState = .inPass)
    (hs : s.subState = .typeLookup) (e : step s = .next t) : Inv t := by
  have hready := h.lookupReady hs
  have hlt : s.pos < s.rxbuf.length := (Nat.le_add_right _ _).trans_lt hready.header_lt
  cases (step_of_ready hl hp hs hready).symm.trans e
  have hregs : Inv { s with work := { s.work with tid := byteAt (window s) s.work.hdr } } :=
    h.of_quiet ⟨rfl, id⟩ fun _ => ⟨hready.hdr, hready.some, hready.bound, hready.total, hready.fits⟩
  exact hregs.settle hp hlt fun p he => { fitsWindow_of_lookUpResult hready he with }

/-- The polling thread's move keeps the invariant. -/
theorem Inv.pollMove {s t : State} (h : Inv s) (e : pollMove s = .next t) : Inv t := by
  cases hst : s.scanState <;> simp only [Machine.pollMove, hst] at e
  case idle => exact h.loopTest e
  case armed =>
    split_ifs at e <;> cases e
    · exact h.passBegin hst
    · exact h
  case stopped | inPass =>
    cases e
    exact h

/-- Where the scanner has no move of its own, no type lookup is to come. -/
theorem Inv.not_typeLookup_of_not_scanning {s : State} (h : Inv s) (hs : scanning s = false) :
    s.subState ≠ .typeLookup := by
  intro hl
  by_cases hp : s.scanState = .inPass
  · simp [scanning, hp, hl] at hs
  · exact h.not_typeLookup hp hl

/-- Settles O11, by the place the step comes from: the wire, the next record, or the polling thread. -/
theorem everyStepKeepsTheInvariant : Obligations.EveryStepKeepsTheInvariant := by
  intro s t h e
  obtain ⟨hl, ⟨hs, _⟩ | ⟨hs, q, rest, i, u, _, hd, hexec⟩ | ⟨hs, _, hpoll⟩⟩ := step_cases e
  · obtain ⟨hp, hsub⟩ : s.scanState = .inPass ∧ s.subState ≠ .inHandler := by simpa [scanning] using hs
    cases hplace : s.subState with
    | search => exact h.step_searching ⟨hl, hp, hplace⟩ e
    | typeLookup => exact h.step_typeLookup hl hp hplace e
    | inHandler => exact absurd hplace hsub
  · have hfmt : i.format = .op ∨ i.format = .tidOut := by
      rw [decode_format hd]
      cases q.command <;> simp
    have hrest : Inv { s with pending := rest } := { h with }
    exact hrest.exec (h.not_typeLookup_of_not_scanning hs) hfmt hexec
  · exact h.pollMove hpoll

end Sys2Proof.Machine

/-! ## What an instruction does to the receive buffer (R21) -/

namespace Sys2Proof.Machine

/-- The buffer is as it was, or has lost its first bytes and taken in the chunks that waited (R176, log entry 12). -/
def BufferConsumed (s t : State) : Prop :=
  t.rxbuf = s.rxbuf ∨ ∃ n, t.rxbuf = s.rxbuf.drop n ++ s.rxWait.flatten

/-- What a move that touches no byte of the buffer keeps (R21, R23). -/
def SameBuffer (s t : State) : Prop := t.rxbuf = s.rxbuf ∧ t.rxWait = s.rxWait

section
variable {s t u : State}

theorem Quiet.rxbuf (h : Quiet s t) : t.rxbuf = s.rxbuf := congrArg Prod.fst h.block

theorem SameBuffer.passEnd (h : SameBuffer s u) : BufferConsumed s (Machine.passEnd u) :=
  .inr ⟨u.pos, by rw [passEnd_rxbuf, h.1, h.2]⟩

theorem SameBuffer.settle (r : CreateResult) (h : SameBuffer s u) :
    BufferConsumed s (turnState (Machine.settle r u)) := by
  obtain ⟨p, _, _, e⟩ | ⟨p, _, _, e⟩ | ⟨k, _, e⟩ | ⟨k, _, e⟩ := settle_cases r u <;> rw [e]
  · exact .inl h.1
  · exact .inl h.1
  · exact h.passEnd
  · exact .inl h.1

theorem candidate_bufferConsumed {sof : Byte} {lenb : Nat} (h : candidate sof lenb s = .next t) :
    BufferConsumed s t := by
  cases hr : (examined sof lenb s).2.result? with
  | some r =>
    cases (candidate_of_result hr).symm.trans h
    exact SameBuffer.settle r ⟨rfl, rfl⟩
  | none =>
    cases (candidate_of_valid (Verdict.eq_valid hr)).symm.trans h
    exact .inl rfl

theorem lookUp_bufferConsumed {tid : Byte} (h : lookUp tid s = .next t) : BufferConsumed s t := by
  obtain ⟨q, _, rfl⟩ | ⟨f, _, rfl⟩ := orRaise_next h
  · exact SameBuffer.settle q.2 ⟨rfl, rfl⟩
  · exact .inl rfl

/-- The scan loop touches no byte before the pass ends. -/
theorem execScanPass_bufferConsumed (h : exec .scanPass s = .next t) : BufferConsumed s t := by
  obtain ⟨hl, ha, ⟨_, rfl⟩ | ⟨hlock, _⟩⟩ := execScanPass_cases h
  · exact .inl rfl
  obtain ⟨u, hloop, hu⟩ := scanLoop_induct (P := SameBuffer s) (Q := BufferConsumed s)
    (stop := fun u hu _ => hu.passEnd)
    (skip := fun u _ _ hu _ _ _ => hu)
    (packet := fun u _ _ hu _ _ => hu)
    (hang := fun u _ _ hu _ _ => .inl hu.1)
    (wait := fun u r _ _ _ hu _ _ _ => SameBuffer.passEnd (u := freeze { u with work := r }) hu)
    (reject := fun u _ _ _ _ hu _ _ _ => hu)
    _ _ (show SameBuffer s (passBegin s) from ⟨rfl, rfl⟩) (passBegin_window_length s)
  cases (execScanPass_of_loop hl ha hlock hloop).symm.trans h
  exact hu

end

/-- Settles O57, by the instruction: a wire row and SCAN_PASS consume, RX_APPEND appends or waits, START and LOOP_TEST
clear, and no other instruction reaches the buffer. -/
theorem receiveBufferIsAppendConsume : Obligations.ReceiveBufferIsAppendConsume := by
  intro s t i h
  have consumed (hi : i = .scanPass ∨ i.format = .sof ∨ i.format = .tidIn) (hc : BufferConsumed s t) :
      (t.rxbuf = s.rxbuf) ∨ (∃ c, i = .rxAppend c ∧ t.rxbuf = s.rxbuf ++ c) ∨
        ((i = .start ∨ i = .loopTest) ∧ t.rxbuf = []) ∨
        ((i = .scanPass ∨ i.format = .sof ∨ i.format = .tidIn) ∧
          ∃ n, t.rxbuf = s.rxbuf.drop n ++ s.rxWait.flatten) :=
    hc.imp_right fun hn => .inr (.inr ⟨hi, hn⟩)
  cases i with
  | frameSmall | frameLarge =>
    obtain ⟨_, _, _, h⟩ := inPassAt_next h
    exact consumed (.inr (.inl rfl)) (candidate_bufferConsumed h)
  | nonCandidate b =>
    obtain ⟨_, _, _, h⟩ := inPassAt_next h
    cases h
    exact .inl rfl
  | firmwareVersion | telemetry | unknownType _ =>
    obtain ⟨_, _, _, h⟩ := inPassAt_next h
    exact consumed (.inr (.inr rfl)) (lookUp_bufferConsumed h)
  | scanPass => exact consumed (.inl rfl) (execScanPass_bufferConsumed h)
  | rxAppend chunk =>
    have h := (unlessFaulted_next h).2
    split_ifs at h <;> cases h
    · exact .inr (.inl ⟨chunk, rfl, rfl⟩)
    · exact .inl rfl
  | start =>
    have h := (unlessFaulted_next h).2
    split_ifs at h <;> cases h
    · exact .inl rfl
    · exact .inr (.inr (.inl ⟨.inl rfl, rfl⟩))
  | loopTest =>
    have h := (unlessFaulted_next h).2
    split_ifs at h <;> cases h
    · exact .inl rfl
    · exact .inr (.inr (.inl ⟨.inr rfl, rfl⟩))
  | stop | setPacketHandler =>
    have h := (unlessFaulted_next h).2
    split_ifs at h <;> cases h <;> exact .inl rfl
  | registerType tid k =>
    have h := (unlessFaulted_next h).2
    split at h
    · cases h
      exact .inl rfl
    · split at h <;> cases h <;> exact .inl rfl
  | _ => exact .inl (exec_quiet rfl h).rxbuf

end Sys2Proof.Machine

/-! ## A pass is the reference scan, and STOP

A place of a pass is described by what the pass has emitted and rejected so far; that, followed by what SCAN (R179)
gives of the window still to come, is what SCAN gives of the whole buffer. -/

namespace Sys2Proof.Machine

/-! ### SCAN(b), turn by turn -/

/-- A scan's result with packets and reasons that came before it. -/
def ScanResult.after (r : ScanResult) (ps : List Packet) (rs : List RejectReason) : ScanResult :=
  { r with packets := ps ++ r.packets, rejects := rs ++ r.rejects }

theorem ScanResult.after_after (r : ScanResult) (ps qs : List Packet) (rs es : List RejectReason) :
    (r.after qs es).after ps rs = r.after (ps ++ qs) (rs ++ es) := by
  simp [ScanResult.after]

/-- Two bounds that suffice give the same scan. -/
theorem scanRef_fuel (c : CrcParams) (reg : Registry) {n m : Nat} {b : Bytes} (hn : b.length < n)
    (hm : b.length < m) : scanRef c reg n b = scanRef c reg m b := by
  induction n generalizing m b with
  | zero => omega
  | succ n ih =>
    obtain ⟨m, rfl⟩ : ∃ k, m = k + 1 := ⟨m - 1, by omega⟩
    cases b with
    | nil => rfl
    | cons x t =>
      simp only [List.length_cons] at hn hm
      have htail : scanRef c reg n t = scanRef c reg m t := ih (by omega) (by omega)
      simp only [scanRef, htail]
      split
      · rfl
      cases hc : classify c reg (x :: t) with
      | needMore k => rfl
      | reject e => rfl
      | packet p =>
        have hlen := (classify_packet_length hc).2.2
        dsimp only [MIN_RX_FRAME_SIZE] at hlen
        have hrest : scanRef c reg n ((x :: t).drop p.frame.buf.length) =
            scanRef c reg m ((x :: t).drop p.frame.buf.length) := by
          apply ih <;> rw [List.length_drop, List.length_cons] <;> omega
        simp only [hrest]

section
variable {c : CrcParams} {reg : Registry} {w t : Bytes} {x : Byte}

theorem scan_nil : scan c reg [] = ⟨[], [], []⟩ := rfl

theorem scan_skip (hx : x ≠ SOF_SMALL ∧ x ≠ SOF_LARGE) : scan c reg (x :: t) = scan c reg t := by
  rw [scan, List.length_cons, scanRef, if_pos hx]
  rfl

/-- Only a window that begins with an SOF value needs more bytes or is a packet. -/
theorem exists_sof_of_classify (h : ∀ e, classify c reg w ≠ .reject e) :
    ∃ x t, w = x :: t ∧ ¬ (x ≠ SOF_SMALL ∧ x ≠ SOF_LARGE) := by
  have hsof : ¬ (byteAt w 0 ≠ SOF_SMALL ∧ byteAt w 0 ≠ SOF_LARGE) := fun hb =>
    h .badSof (by rw [classify, if_pos hb])
  cases w with
  | nil => exact absurd (by decide) hsof
  | cons x t => exact ⟨x, t, rfl, hsof⟩

theorem scan_needMore {k : Nat} (h : classify c reg w = .needMore k) : scan c reg w = ⟨[], [], w⟩ := by
  obtain ⟨x, t, rfl, hx⟩ := exists_sof_of_classify (c := c) (reg := reg) (w := w) (by simp [h])
  simp only [scan, scanRef, if_neg hx, h]

theorem scan_reject {e : RejectReason} (hx : ¬ (x ≠ SOF_SMALL ∧ x ≠ SOF_LARGE))
    (h : classify c reg (x :: t) = .reject e) : scan c reg (x :: t) = (scan c reg t).after [] [e] := by
  simp only [scan, List.length_cons, scanRef, if_neg hx, h]
  rfl

theorem scan_packet {p : Packet} (h : classify c reg w = .packet p) :
    scan c reg w = (scan c reg (w.drop p.frame.buf.length)).after [p] [] := by
  obtain ⟨x, t, rfl, hx⟩ := exists_sof_of_classify (c := c) (reg := reg) (w := w) (by simp [h])
  have hlen := (classify_packet_length h).2.2
  dsimp only [MIN_RX_FRAME_SIZE] at hlen
  simp only [scan, List.length_cons, scanRef, if_neg hx, h]
  rw [scanRef_fuel c reg (m := ((x :: t).drop p.frame.buf.length).length + 1) (by simp; omega) (by omega)]
  rfl

end

/-! ### The loop invariant of a pass -/

/-- SCAN of what a pass has still to read. -/
def scanRest (s : State) : ScanResult := scan s.cfg.crc s.registry (window s)

/-- `s` searching on in a pass after the packets `ps` and the reasons `rs`, with any transients and the registry
frozen or not. -/
def midPass (s : State) (ps : List Packet) (rs : List RejectReason) (w : WorkRegs) (p : Nat) (z : Bool) : State :=
  { s with
    pktOut := s.pktOut ++ ps, handlerLeft := s.handlerLeft.map (· - ps.length), rejLog := s.rejLog ++ rs, work := w,
    pos := p, regFrozen := z, subState := .search }

/-- One handler call more is used up. -/
theorem handlerLeft_sub_append (l : Option Nat) (ps : List Packet) (p : Packet) :
    (l.map (· - ps.length)).map (· - 1) = l.map (· - (ps ++ [p]).length) := by
  cases l <;> simp [Nat.sub_sub]

section
variable {s : State} {ps : List Packet} {rs : List RejectReason} {w r : WorkRegs} {n : Nat} {z : Bool}

theorem midPass_rejectHere (e : RejectReason) : rejectHere e (freeze { midPass s ps rs w n z with work := r }) =
    midPass s ps (rs ++ [e]) r (n + 1) true := by
  simp [midPass, rejectHere, freeze]

theorem midPass_afterPacket (p : Packet) : afterPacket p (freeze { midPass s ps rs w n z with work := r }) =
    midPass s (ps ++ [p]) rs r (n + p.frame.buf.length) true := by
  simp only [midPass, afterPacket, emit, freeze, ← handlerLeft_sub_append, List.append_assoc]

end

/-- `u` is a place of the pass that begins in `s`: what was emitted and rejected, followed by SCAN of the rest, is
SCAN of `s`. -/
structure PassPlace (s u : State) (ps : List Packet) (rs : List RejectReason) : Prop where
  state : ∃ w n z, (s.regFrozen = true → z = true) ∧ u = midPass s ps rs w n z
  scan  : scanRest s = (scanRest u).after ps rs

section
variable {s u : State} {ps : List Packet} {rs : List RejectReason}

theorem passPlace_refl (hs : s.subState = .search) : PassPlace s s [] [] where
  state := ⟨s.work, s.pos, s.regFrozen, id, by simp [midPass, ← hs]⟩
  scan := rfl

theorem PassPlace.skip {b : Byte} {t : Bytes} (h : PassPlace s u ps rs) (hw : window u = b :: t)
    (hb : b ≠ SOF_SMALL ∧ b ≠ SOF_LARGE) : PassPlace s (skipByte u) ps rs where
  state := by
    obtain ⟨r, n, z, hz, rfl⟩ := h.state
    exact ⟨r, n + 1, z, hz, rfl⟩
  scan := by
    have hrest : scanRest (skipByte u) = scanRest u := by
      rw [scanRest, scanRest, window_advance (s := u) (s' := skipByte u) 1 rfl rfl, hw]
      exact (scan_skip hb).symm
    rw [hrest, h.scan]

theorem PassPlace.reject {b : Byte} {t : Bytes} {e : RejectReason} (r : WorkRegs) (h : PassPlace s u ps rs)
    (hw : window u = b :: t) (hb : ¬ (b ≠ SOF_SMALL ∧ b ≠ SOF_LARGE))
    (hc : classify u.cfg.crc u.registry (window u) = .reject e) :
    PassPlace s (rejectHere e (freeze { u with work := r })) ps (rs ++ [e]) where
  state := by
    obtain ⟨_, n, _, _, rfl⟩ := h.state
    exact ⟨r, n + 1, true, fun _ => rfl, midPass_rejectHere e⟩
  scan := by
    have hrest : scanRest u = (scanRest (rejectHere e (freeze { u with work := r }))).after [] [e] := by
      rw [hw] at hc
      rw [scanRest, scanRest,
        window_advance (s := u) (s' := rejectHere e (freeze { u with work := r })) 1 rfl rfl, hw]
      exact scan_reject hb hc
    rw [h.scan, hrest, ScanResult.after_after, List.append_nil]

theorem PassPlace.packet {p : Packet} (r : WorkRegs) (h : PassPlace s u ps rs)
    (hc : classify u.cfg.crc u.registry (window u) = .packet p) :
    PassPlace s (afterPacket p (freeze { u with work := r })) (ps ++ [p]) rs where
  state := by
    obtain ⟨_, n, _, _, rfl⟩ := h.state
    exact ⟨r, n + p.frame.buf.length, true, fun _ => rfl, midPass_afterPacket p⟩
  scan := by
    have hrest : scanRest u = (scanRest (afterPacket p (freeze { u with work := r }))).after [p] [] := by
      rw [scanRest, scanRest,
        window_advance (s := u) (s' := afterPacket p (freeze { u with work := r })) p.frame.buf.length rfl rfl]
      exact scan_packet hc
    rw [h.scan, hrest, ScanResult.after_after, List.append_nil]

/-- The state a pass ends in when it leaves `rest` of the buffer. -/
def passDone (s : State) (r : ScanResult) (w : WorkRegs) (n : Nat) (z : Bool) : State :=
  { midPass s r.packets r.rejects w n z with
    rxbuf := r.rest ++ s.rxWait.flatten, rxWait := [], scanState := .idle, lock := .free }

/-- Where the rest of the window gives nothing, the pass ends as SCAN says. -/
theorem PassPlace.done {r : WorkRegs} {z : Bool} (h : PassPlace s u ps rs) (hrest : scanRest u = ⟨[], [], window u⟩)
    (hz : z = true ∨ z = u.regFrozen) :
    ∃ w n z', (s.regFrozen = true → z' = true) ∧
      passEnd { u with work := r, regFrozen := z } = passDone s (scanRest s) w n z' := by
  obtain ⟨w, n, z', hz', rfl⟩ := h.state
  refine ⟨r, n, z, fun hs => hz.elim id fun e => e.trans (hz' hs), ?_⟩
  rw [h.scan, hrest]
  simp [passDone, ScanResult.after, passEnd, release, midPass, window]

/-- A handler call that does not return is one packet more than those that do. -/
theorem PassPlace.hang {p : Packet} (h : PassPlace s u ps rs)
    (hc : classify u.cfg.crc u.registry (window u) = .packet p) (hr : u.handlerReturns = false) :
    ∃ n, s.handlerLeft = some n ∧ n < (scanRest s).packets.length := by
  have hleft : u.handlerLeft = some 0 := by simpa [State.handlerReturns] using hr
  have hcount : ps.length < (scanRest s).packets.length := by
    rw [h.scan, scanRest, scan_packet hc]
    simp [ScanResult.after]
  obtain ⟨w, n, z, _, rfl⟩ := h.state
  obtain ⟨k, hk, hzero⟩ := Option.map_eq_some_iff.mp hleft
  exact ⟨k, hk, by omega⟩

end

/-- Where the handler returns at every packet, SCAN_PASS is the reference scan (R179). -/
theorem execScanPass_scan {s : State} (hl : s.live) (ha : s.scanState = .armed) (hlock : s.lock = .free)
    (hret : ∀ n, s.handlerLeft = some n → (scan s.cfg.crc s.registry s.rxbuf).packets.length ≤ n) :
    ∃ w n z, (s.regFrozen = true → z = true) ∧
      exec .scanPass s = .next (passDone s (scan s.cfg.crc s.registry s.rxbuf) w n z) := by
  have hscan : scanRest (passBegin s) = scan s.cfg.crc s.registry s.rxbuf := rfl
  obtain ⟨t, hloop, w, n, z, hz, rfl⟩ := scanLoop_induct
    (P := fun u => ∃ ps rs, PassPlace (passBegin s) u ps rs)
    (Q := fun t => ∃ w n z, (s.regFrozen = true → z = true) ∧
      t = passDone (passBegin s) (scanRest (passBegin s)) w n z)
    (stop := fun u ⟨ps, rs, h⟩ hw => h.done (r := u.work) (by rw [scanRest, hw, scan_nil]) (.inr rfl))
    (skip := fun u b t ⟨ps, rs, h⟩ hw h1 h2 => ⟨ps, rs, h.skip hw ⟨h1, h2⟩⟩)
    (packet := fun u r p ⟨ps, rs, h⟩ hc _ => ⟨_, _, h.packet r hc⟩)
    (hang := fun u r p ⟨ps, rs, h⟩ hc hr => by
      obtain ⟨k, hk, hlt⟩ := h.hang hc hr
      exact absurd (hret k hk) (not_le.mpr hlt))
    (wait := fun u r b t k ⟨ps, rs, h⟩ _ _ hc => h.done (by rw [scanRest, scan_needMore hc]) (.inl rfl))
    (reject := fun u r b t e ⟨ps, rs, h⟩ hw hb hc => ⟨_, _, h.reject r hw hb hc⟩)
    _ _ ⟨[], [], passPlace_refl rfl⟩ (passBegin_window_length s)
  exact ⟨w, n, z, hz, execScanPass_of_loop hl ha hlock hloop⟩

/-! ### STOP -/

/-- A STOP's request stands (R184). -/
def stopRequested (s : State) : State := { s with run := false, joinWait := true, result := .none }

theorem execStop_running {s : State} (hl : s.live) (h : s.scanState ≠ .stopped) :
    exec .stop s = .next (stopRequested s) :=
  (unlessFaulted_live hl).trans (if_neg h)

/-- Callbacks one after another append their chunks in order, while the lock is free (R171). -/
theorem receiveAll_append (cs : List Bytes) {s : State} (hl : s.live) (hlock : s.lock = .free) :
    receiveAll cs s = .next (append cs.flatten s) := by
  induction cs generalizing s with
  | nil => simp [receiveAll, append]
  | cons c cs ih =>
    have hc : exec (.rxAppend c) s = .next (append c s) := (unlessFaulted_live hl).trans (if_pos hlock)
    simp only [receiveAll, hc]
    rw [ih (s := append c s) hl hlock]
    simp [append]

/-- From the sleep with the run flag clear, whatever is received, no pass begins and the loop test ends the loop. -/
theorem loop_ends_from_idle (ds : List Bytes) {s : State} (hl : s.live) (hlock : s.lock = .free)
    (hidle : s.scanState = .idle) (hrun : s.run = false) :
    receiveAll ds s = .next (append ds.flatten s) ∧
      exec .scanPass (append ds.flatten s) = .refused .notEnabled ∧
      exec .loopTest (append ds.flatten s) =
        .next { append ds.flatten s with scanState := .stopped, rxbuf := [], joinWait := false } :=
  ⟨receiveAll_append ds hl hlock, execScanPass_refused hl (by simp [hidle]), execLoopTest_ends hl hidle hrun⟩

/-- Settles O43: from the sleep the loop test ends the loop; an armed pass is the reference scan of what has come by
then, and ends in the sleep. -/
theorem stopEndsAtTheNextLoopTest : Obligations.StopEndsAtTheNextLoopTest := by
  intro s cs ds hl hlock hleft ended
  refine ⟨fun hidle => ?_, fun harmed => ?_⟩
  · have hstop := execStop_running hl (show s.scanState ≠ .stopped by simp [hidle])
    obtain ⟨hrecv, hpass, htest⟩ := loop_ends_from_idle cs (s := stopRequested s) hl hlock hidle rfl
    exact ⟨_, _, _, hstop, hrecv, hpass, htest, rfl, rfl, rfl, rfl, rfl, rfl, rfl⟩
  · have hidle : s.scanState ≠ .idle := by simp [harmed]
    have hstop := execStop_running hl (show s.scanState ≠ .stopped by simp [harmed])
    have hrecv := receiveAll_append cs (s := stopRequested s) hl hlock
    obtain ⟨w, n, z, _, hpass⟩ := execScanPass_scan (s := append cs.flatten (stopRequested s)) hl harmed hlock
      fun n hn => absurd (hleft.symm.trans hn) nofun
    obtain ⟨hrecv', hpass', htest⟩ := loop_ends_from_idle ds
      (s := passDone (append cs.flatten (stopRequested s)) _ w n z) hl rfl rfl rfl
    exact ⟨_, _, _, _, _, hstop, hrecv, execLoopTest_refused hl hidle, hpass, rfl, rfl, rfl, hrecv',
      hpass', htest, rfl, rfl, rfl, rfl, rfl, rfl, rfl⟩

end Sys2Proof.Machine

/-! ## Encoding and decoding

An operation's decoder is a chain of operand readers. `reader_bind` feeds one link of the chain what its reader answers,
so each row's round trip is the round trips of its operands. -/

namespace Sys2Proof

/-! ### Decoding gives back what was encoded -/

/-- A reader in front of a continuation hands it the operand and the bytes after it. -/
theorem reader_bind {α β : Type} {get : Reader α} {s u : Bytes} {a : α} {k : α × Bytes → Except DecodeError β}
    (h : get s = .ok (a, u)) : (get s >>= k) = k (a, u) := by
  rw [h]
  rfl

section
variable {c : Config} {i : Instr}

theorem decodeSof_encode (hi : i.wf c) (hf : i.format = .sof) (t : Bytes) :
    decodeSof (encode c i ++ t) = .ok (i, t) := by
  cases i with
  | frameSmall | frameLarge => rfl
  | nonCandidate b => exact (if_neg hi.1).trans (if_neg hi.2)
  | _ => cases hf

theorem decodeTidIn_encode (hc : c.tids.Nodup) (hi : i.wf c) (hf : i.format = .tidIn) (t : Bytes) :
    decodeTidIn c (encode c i ++ t) = .ok (i, t) := by
  cases i with
  | firmwareVersion => exact if_pos rfl
  | telemetry =>
    have hne : c.tidGetValues ≠ c.tidFwVersion := fun h => by simp [Config.tids, h] at hc
    exact (if_neg hne).trans (if_pos rfl)
  | unknownType b => exact (if_neg hi.1).trans (if_neg hi.2)
  | _ => cases hf

/-- The rows are tried in the order of `Config.tids`, so each identifier has to differ from those before it. -/
theorem decodeTidOut_encode (hc : c.tids.Nodup) (hf : i.format = .tidOut) (t : Bytes) :
    decodeTidOut c (encode c i ++ t) = .ok (i, t) := by
  have hne := hc.imp Ne.symm
  simp only [Config.tids, List.pairwise_cons, List.forall_mem_cons] at hne
  have hquad (v : Quad) : getField 4 32 (Machine.beBytes 4 v.toNat ++ t) = .ok (v, t) :=
    getField_beBytes 4 32 v t (by norm_num)
  have hhalf (v : Half) : getField 2 16 (Machine.beBytes 2 v.toNat ++ t) = .ok (v, t) :=
    getField_beBytes 2 16 v t (by norm_num)
  cases i with
  | requestFirmwareVersion => exact if_pos rfl
  | requestTelemetry => simp [encode, decodeTidOut, hne]
  | setDutyCycle v | setCurrent v | setCurrentBrake v | setRPM v | setPosition v =>
    simp [encode, decodeTidOut, hne, reader_bind (hquad v), pure, Except.pure]
  | setServoPosition v =>
    simp [encode, decodeTidOut, hne, reader_bind (hhalf v), pure, Except.pure]
  | _ => cases hf

theorem decodeOp_encode (hf : i.format = .op) (t : Bytes) : decodeOp (encode c i ++ t) = .ok (i, t) := by
  cases i with
  | registerType tid k => exact reader_bind (getKind_putKind k t)
  | setPacketHandler | setErrorHandler | start | stop | scanPass | loopTest => rfl
  | encRequestFwVersion | encRequestTelemetry => rfl
  | rxAppend s | createPacket s | crc16 s => exact reader_bind (getBytes_putBytes s t)
  | buildFrame n => exact reader_bind (getInt_putInt n t)
  | sealFrame f | send f => exact reader_bind (getFrame_putFrame f t)
  | extractFrame raw off n => exact reader_bind (getFrame_putFrame ⟨raw, off, n⟩ t)
  | encSetDutyCycle x | encSetCurrent x | encSetCurrentBrake x | encSetRpm x | encSetPosition x
  | encSetServoPosition x => exact reader_bind (getReal_putReal x t)
  | decTelemetry a f =>
    rw [encode, List.cons_append, List.append_assoc]
    exact (reader_bind (getCall_telFields a (putFrame f ++ t))).trans (reader_bind (getFrame_putFrame f t))
  | decFwVersion a f =>
    rw [encode, List.cons_append, List.append_assoc]
    exact (reader_bind (getCall_fwFields a (putFrame f ++ t))).trans (reader_bind (getFrame_putFrame f t))
  | _ => cases hf

end

/-- Settles O1, format by format. -/
theorem decodeOfEncodeIsTheInstruction : Obligations.DecodeOfEncodeIsTheInstruction := by
  intro c i t hc hi
  cases hf : i.format with
  | sof => exact decodeSof_encode hi hf t
  | tidIn => exact decodeTidIn_encode hc.1 hi hf t
  | tidOut => exact decodeTidOut_encode hc.1 hf t
  | op => exact decodeOp_encode hf t

/-! ### Written words, and the closed set of operations -/

/-- Settles O2: the words are closed, so the decoder evaluates on each. -/
theorem writtenWordsDecode : Obligations.WrittenWordsDecode :=
  ⟨rfl, rfl, rfl, rfl, rfl, rfl⟩

/-- Settles O3: each listed row's number is in the list, so only the default row is left. -/
theorem unlistedOperationNumbersAreRefused : Obligations.UnlistedOperationNumbersAreRefused := by
  intro b t hb
  rw [show b = BitVec.ofNat 8 b.toNat by simp] at hb
  simp only [decodeOp]
  split
  iterate 24
    next hn =>
      rw [hn] at hb
      exact absurd (by decide) hb
  rfl

end Sys2Proof

/-! ## The instruction on the wire, and what the outbound rows build -/

namespace Sys2Proof.Machine

/-- Settles O6: away from the buffer's end the step is what `fetchWire` reads at the scanner's place. -/
theorem stepRunsTheInstructionOnTheWire : Obligations.StepRunsTheInstructionOnTheWire := by
  intro s i u hl hp
  refine ⟨fun hs hpos hd => ?_, fun hs hd => ?_⟩
  · refine step_of_fetchWire hl hp (by simp [hs]) (by omega) ?_
    simp only [fetchWire, hs, window, hd]
  · refine step_of_fetchWire hl hp (by simp [hs]) (by simp [hs]) ?_
    simp only [fetchWire, hs, hd]

/-! ### Outbound commands: the payload -/

/-- A command call answers the packet of its identifier and field, whatever the unwritten bytes were (R201). -/
theorem command_ok {s : State} (tid : Byte) (k : Kind) {n : Nat} (v : Nat) (hl : s.live) (hn : n ≤ 254) :
    let p := tid :: beBytes n v
    command tid k n v s = .next { s with result := .packet ⟨⟨frameOf s.cfg.crc p, 2, p.length⟩, k⟩ } := by
  intro p
  rw [command, unlessFaulted_live hl, encPacket_ok _ _ _ _ _ _ hn, orRaise_ok, List.length_cons, beBytes_length,
    Nat.add_comm n]
  rfl

/-- Settles O46: each row is the command of its own identifier and field. -/
theorem commandRowsBuildTheirPayload : Obligations.CommandRowsBuildTheirPayload := by
  intro s v h i k hl hmem
  simp only [List.mem_cons, Prod.mk.injEq, List.not_mem_nil, or_false] at hmem
  rcases hmem with ⟨rfl, rfl⟩ | ⟨rfl, rfl⟩ | ⟨rfl, rfl⟩ | ⟨rfl, rfl⟩ | ⟨rfl, rfl⟩ | ⟨rfl, rfl⟩ | ⟨rfl, rfl⟩ | ⟨rfl, rfl⟩
  all_goals
    refine command_ok _ _ _ hl ?_
    norm_num

/-! ### Outbound commands: the field over exact REAL -/

theorem trunc_of_nonneg {q : Rat} (h : 0 ≤ q) : trunc q = ⌊q⌋ := by
  rw [trunc, Rat.floor_def', Int.tdiv_eq_ediv_of_nonneg (Rat.num_nonneg.mpr h)]

theorem trunc_neg (q : Rat) : trunc (-q) = -trunc q := Int.neg_tdiv ..

theorem trunc_of_nonpos {q : Rat} (h : q ≤ 0) : trunc q = ⌈q⌉ := by
  rw [← neg_neg q, trunc_neg, trunc_of_nonneg (neg_nonneg.mpr h), Int.ceil_neg]

theorem toNat_fix_exact (x : Rat) (scale w : Nat) :
    ((fix .exact (.fin x) scale w).toNat : Int) = trunc (x * scale) % 2 ^ w := by
  rw [fix_exact, BitVec.toNat_ofInt, Int.toNat_of_nonneg (Int.emod_nonneg _ (by positivity))]
  norm_cast

/-- Settles O48: truncation rounds down from zero on and up below it, and the product has the argument's sign. -/
theorem commandFieldsWrap : Obligations.CommandFieldsWrap := by
  intro x scale w
  have hs : (0 : Rat) ≤ scale := Nat.cast_nonneg scale
  rw [toNat_fix_exact]
  split_ifs with hx
  · rw [trunc_of_nonneg (mul_nonneg hx hs)]
  · rw [trunc_of_nonpos (mul_nonpos_of_nonpos_of_nonneg (not_le.mp hx).le hs)]

end Sys2Proof.Machine

/-! ## The CRC engine

The byte loop is linear: a difference in the register runs through it on its own, whatever the bytes are. A table look-up
is this law with the register cut into its two bytes; and one flipped bit changes the checksum because a single bit never
runs out of the register. -/

namespace Sys2Proof.Machine

/-! ### The byte loop -/

theorem crcFold_append (c : CrcParams) (acc : Half) (u v : Bytes) :
    crcFold c acc (u ++ v) = crcFold c (crcFold c acc u) v := List.foldl_append

@[simp] theorem crcFold_cons (c : CrcParams) (acc : Half) (b : Byte) (s : Bytes) :
    crcFold c acc (b :: s) = crcFold c (crcByte c acc b) s := rfl

@[simp] theorem crcFinish_inj {c : CrcParams} {a b : Half} : crcFinish c a = crcFinish c b ↔ a = b := by
  have hrev : a.reverse = b.reverse → a = b := fun h => BitVec.eq_of_getMsbD_eq fun i _ => by
    rw [← BitVec.getLsbD_reverse, h, BitVec.getLsbD_reverse]
  rw [crcFinish, crcFinish, BitVec.xor_left_inj]
  split_ifs
  · exact ⟨hrev, congrArg _⟩
  · exact Iff.rfl

/-- The byte as it enters the register (R111). -/
def crcInput (c : CrcParams) (b : Byte) : Byte := if c.refin then b.reverse else b

theorem crcByte_eq (c : CrcParams) (acc : Half) (b : Byte) :
    crcByte c acc b = crcBits c.poly 8 (acc ^^^ (crcInput c b).setWidth 16 <<< 8) := rfl

/-- Settles O16, with the accumulator of the byte loop. -/
theorem crc16ReturnsTheChecksum : Obligations.Crc16ReturnsTheChecksum := fun _ _ hl =>
  ⟨_, unlessFaulted_live hl⟩

/-- Settles O17. -/
theorem checksumIsAFold : Obligations.ChecksumIsAFold := fun c acc u v => ⟨crcFold_append c acc u v, rfl⟩

/-- Settles O20: under the default parameters the checksum of the nine digits evaluates. -/
theorem defaultChecksumHasTheCheckValue : Obligations.DefaultChecksumHasTheCheckValue := by
  intro s hl hc
  obtain ⟨acc, h⟩ := crc16ReturnsTheChecksum s [0x31, 0x32, 0x33, 0x34, 0x35, 0x36, 0x37, 0x38, 0x39] hl
  have hcheck : crc16 defaultCrc [0x31, 0x32, 0x33, 0x34, 0x35, 0x36, 0x37, 0x38, 0x39] = 0x31C3 := by decide +kernel
  exact ⟨_, h, by rw [hc, hcheck]⟩

/-! ### Linearity -/

theorem crcBit_of_high {poly d : Half} (h : d.getLsbD 15 = true) : crcBit poly d = d <<< 1 ^^^ poly := if_pos h

theorem crcBit_of_not_high {poly d : Half} (h : d.getLsbD 15 = false) : crcBit poly d = d <<< 1 :=
  if_neg (Bool.eq_false_iff.mp h)

theorem crcBit_eq_xor (poly d : Half) : crcBit poly d = d <<< 1 ^^^ (if d.getLsbD 15 then poly else 0) := by
  unfold crcBit
  split_ifs
  · rfl
  · exact (BitVec.xor_zero ..).symm

theorem crcBit_xor (poly a d : Half) : crcBit poly (a ^^^ d) = crcBit poly a ^^^ crcBit poly d := by
  have hadd : ∀ x y : Bool, (if x ^^ y then poly else 0) = (if x then poly else 0) ^^^ (if y then poly else 0) := by
    simp
  simp only [crcBit_eq_xor, BitVec.shiftLeft_xor_distrib, BitVec.getLsbD_xor, hadd]
  ac_rfl

theorem crcBits_xor (poly : Half) (n : Nat) (a d : Half) :
    crcBits poly n (a ^^^ d) = crcBits poly n a ^^^ crcBits poly n d := by
  induction n generalizing a d with
  | zero => rfl
  | succ n ih => rw [crcBits, crcBit_xor, ih]; rfl

theorem crcBits_add (poly : Half) (m n : Nat) (d : Half) :
    crcBits poly (m + n) d = crcBits poly n (crcBits poly m d) := by
  induction m generalizing d with
  | zero => rw [Nat.zero_add]; rfl
  | succ m ih => rw [Nat.add_right_comm]; exact ih _

theorem crcByte_xor (c : CrcParams) (a d : Half) (b : Byte) :
    crcByte c (a ^^^ d) b = crcByte c a b ^^^ crcBits c.poly 8 d := by
  rw [crcByte_eq, crcByte_eq, ← crcBits_xor]
  ac_rfl

/-- A difference in the register before the byte loop is its own run through the loop's shifts afterwards. -/
theorem crcFold_xor (c : CrcParams) (a d : Half) (s : Bytes) :
    crcFold c (a ^^^ d) s = crcFold c a s ^^^ crcBits c.poly (8 * s.length) d := by
  induction s generalizing a d with
  | nil => rfl
  | cons b s ih =>
    rw [crcFold_cons, crcFold_cons, crcByte_xor, ih, ← crcBits_add, List.length_cons, Nat.mul_add, Nat.add_comm]

/-! ### A look-up for each byte -/

/-- Where no set bit reaches the top, the polynomial is never added. -/
theorem crcBits_eq_shiftLeft (poly : Half) {n : Nat} (hn : n ≤ 16) {d : Half}
    (h : ∀ i, 16 - n ≤ i → d.getLsbD i = false) : crcBits poly n d = d <<< n := by
  induction n generalizing d with
  | zero => simp [crcBits]
  | succ n ih =>
    rw [crcBits, crcBit_of_not_high (h 15 (by omega)), ih (by omega), Nat.add_comm, BitVec.shiftLeft_add]
    intro i hi
    simp [BitVec.getLsbD_shiftLeft, h (i - 1) (by omega)]

/-- The register as its two bytes. -/
theorem eq_high_xor_low (a : Half) :
    a = (a.extractLsb' 8 8).setWidth 16 <<< 8 ^^^ (a.setWidth 8).setWidth 16 := by
  refine BitVec.eq_of_getLsbD_eq fun i hi => ?_
  by_cases h8 : i < 8
  · simp [h8, hi]
  · simp [h8, hi, show i - 8 < 8 by omega, show 8 + (i - 8) = i by omega]

/-- The low byte moves up unchanged; the high byte with the input added gives the table entry. -/
theorem crcByte_eq_table (c : CrcParams) (a : Half) (b : Byte) :
    crcByte c a b = a <<< 8 ^^^ crcTable c.poly (a.extractLsb' 8 8 ^^^ crcInput c b) := by
  have hlow : crcBits c.poly 8 ((a.setWidth 8).setWidth 16) = a <<< 8 := by
    rw [crcBits_eq_shiftLeft _ (by omega) fun i hi => by simp; omega]
    refine BitVec.eq_of_getLsbD_eq fun i hi => ?_
    simp only [BitVec.getLsbD_shiftLeft, BitVec.getLsbD_setWidth, show i - 8 < 8 by omega, show i - 8 < 16 by omega,
      decide_true, Bool.true_and]
  rw [crcTable, BitVec.setWidth_xor, BitVec.shiftLeft_xor_distrib, ← hlow, ← crcBits_xor, crcByte_eq]
  conv_lhs => rw [eq_high_xor_low a]
  ac_rfl

/-- Settles O18, byte by byte. -/
theorem tableDrivenChecksumAgrees : Obligations.TableDrivenChecksumAgrees := by
  intro c acc s
  rw [crcFold, funext₂ (crcByte_eq_table c)]
  rfl

/-! ### One flipped bit -/

/-- `m` is the place of the polynomial's lowest bit. -/
structure LowestBit (poly : Half) (m : Nat) : Prop where
  set : poly.getLsbD m = true
  below : ∀ i < m, poly.getLsbD i = false

theorem exists_lowestBit {poly : Half} (h : poly ≠ 0) : ∃ m, LowestBit poly m := by
  have hset : ∃ m, poly.getLsbD m = true := by
    by_contra hno
    exact h (BitVec.eq_of_getLsbD_eq fun i _ => by simpa using not_exists.mp hno i)
  exact ⟨Nat.find hset, Nat.find_spec hset, fun i hi => by simpa using Nat.find_min hset hi⟩

/-- A register difference that no shift erases, `m` being the place of the polynomial's lowest bit: a single bit still
below it, or a nonzero value with no bit below it. -/
inductive Lasting (m : Nat) (d : Half) : Prop where
  | single (k : Nat) (hk : k < m) (eq : d = BitVec.twoPow 16 k)
  | high (ne : d ≠ 0) (below : ∀ i < m, d.getLsbD i = false)

theorem Lasting.ne_zero {m : Nat} {d : Half} (hm : m < 16) : Lasting m d → d ≠ 0
  | .high ne _ => ne
  | .single k hk eq => by
    rintro rfl
    have := congrArg (BitVec.getLsbD · k) eq
    simp [BitVec.getLsbD_twoPow] at this
    omega

theorem lasting_twoPow (m : Nat) {k : Nat} (hk : k < 16) : Lasting m (BitVec.twoPow 16 k) := by
  have hbit (i : Nat) : (BitVec.twoPow 16 k).getLsbD i = decide (k = i) := by simp [BitVec.getLsbD_twoPow, hk]
  by_cases hkm : k < m
  · exact .single k hkm rfl
  · refine .high (fun h => ?_) fun i hi => ?_
    · simpa [h] using hbit k
    · rw [hbit, decide_eq_false (by omega)]

theorem eq_zero_of_shiftLeft_one {d : Half} (h15 : d.getLsbD 15 = false) (h : d <<< 1 = 0) : d = 0 := by
  refine BitVec.eq_of_getLsbD_eq fun i hi => ?_
  by_cases hi15 : i = 15
  · rw [hi15, h15]; rfl
  · have := congrArg (BitVec.getLsbD · (i + 1)) h
    simpa [show i + 1 < 16 by omega, BitVec.getLsbD_eq_getElem hi] using this

/-- A shift that adds the polynomial sets its lowest bit; one that does not loses nothing. -/
theorem Lasting.crcBit {poly d : Half} {m : Nat} (hp : LowestBit poly m) : Lasting m d → Lasting m (crcBit poly d)
  | .single k hk eq => by
    have hm := BitVec.lt_of_getLsbD hp.set
    rw [eq, crcBit_of_not_high (by simp; omega), BitVec.twoPow_eq, ← BitVec.shiftLeft_add,
      ← BitVec.twoPow_eq]
    exact lasting_twoPow m (by omega)
  | .high ne below => by
    have hm := BitVec.lt_of_getLsbD hp.set
    have hshift (i : Nat) (hi : i ≤ m) : (d <<< 1).getLsbD i = false := by
      cases i with
      | zero => simp
      | succ i => simp [below i hi]
    cases h15 : d.getLsbD 15 with
    | true =>
      rw [crcBit_of_high h15]
      refine .high (fun h => ?_) fun i hi => by rw [BitVec.getLsbD_xor, hshift i hi.le, hp.below i hi]; rfl
      have := congrArg (BitVec.getLsbD · m) h
      simp [hshift m le_rfl, hp.set] at this
    | false =>
      rw [crcBit_of_not_high h15]
      exact .high (fun h => ne (eq_zero_of_shiftLeft_one h15 h)) fun i hi => hshift i hi.le

theorem Lasting.crcBits {poly : Half} {m : Nat} (hp : LowestBit poly m) (n : Nat) {d : Half} (h : Lasting m d) :
    Lasting m (crcBits poly n d) := by
  induction n generalizing d with
  | zero => exact h
  | succ n ih => exact ih (h.crcBit hp)

theorem crcBits_twoPow_ne_zero {poly : Half} (hp : poly ≠ 0) (n : Nat) {k : Nat} (hk : k < 16) :
    crcBits poly n (BitVec.twoPow 16 k) ≠ 0 := by
  obtain ⟨m, hm⟩ := exists_lowestBit hp
  exact ((lasting_twoPow m hk).crcBits hm n).ne_zero (BitVec.lt_of_getLsbD hm.set)

theorem reverse_xor (a b : Byte) : (a ^^^ b).reverse = a.reverse ^^^ b.reverse :=
  BitVec.eq_of_getLsbD_eq fun i _ => by simp only [BitVec.getLsbD_reverse, BitVec.getLsbD_xor, BitVec.getMsbD_xor]

theorem reverse_twoPow : ∀ k < 8, (BitVec.twoPow 8 k).reverse = BitVec.twoPow 8 (7 - k) := by decide

/-- The input is added into the high byte of the register. -/
theorem twoPow_high_byte : ∀ k < 8, (BitVec.twoPow 8 k).setWidth 16 <<< 8 = BitVec.twoPow 16 (k + 8) := by decide

/-- A flipped bit of a byte is a flipped bit of what enters the register, reflected or not. -/
theorem crcInput_flip (c : CrcParams) (b : Byte) {k : Nat} (hk : k < 8) :
    ∃ j < 8, crcInput c (b ^^^ BitVec.twoPow 8 k) = crcInput c b ^^^ BitVec.twoPow 8 j := by
  unfold crcInput
  split_ifs
  · exact ⟨7 - k, by omega, by rw [reverse_xor, reverse_twoPow k hk]⟩
  · exact ⟨k, hk, rfl⟩

theorem crcByte_flip (c : CrcParams) (a : Half) (b : Byte) {k : Nat} (hk : k < 8) :
    ∃ j < 16, crcByte c a (b ^^^ BitVec.twoPow 8 k) = crcByte c a b ^^^ crcBits c.poly 8 (BitVec.twoPow 16 j) := by
  obtain ⟨j, hj, e⟩ := crcInput_flip c b hk
  refine ⟨j + 8, by omega, ?_⟩
  rw [crcByte_eq, crcByte_eq, e, BitVec.setWidth_xor, BitVec.shiftLeft_xor_distrib, twoPow_high_byte j hj,
    ← BitVec.xor_assoc, crcBits_xor]

/-- Settles O19: the difference that the flipped bit makes in its byte runs through the rest on its own, and lasts. -/
theorem oneFlippedBitChangesTheChecksum : Obligations.OneFlippedBitChangesTheChecksum := by
  intro c u v b k hp hk
  rw [← BitVec.twoPow_eq, crc16, crc16, Ne, crcFinish_inj, crcFold_append, crcFold_append, crcFold_cons, crcFold_cons]
  obtain ⟨j, hj, e⟩ := crcByte_flip c (crcFold c c.init u) b hk
  rw [e, crcFold_xor, ← crcBits_add]
  exact fun h => crcBits_twoPow_ne_zero hp _ hj (by simpa using h)

/-! ### One flipped bit of a frame -/

/-- A byte with one bit flipped. -/
def flipBit (k : Nat) (b : Byte) : Byte := b ^^^ 1#8 <<< k

theorem flipBit_ne {k : Nat} (hk : k < 8) (b : Byte) : flipBit k b ≠ b := fun h => by
  have hone : 1#8 <<< k = 0 := (BitVec.xor_right_inj b).mp (h.trans (BitVec.xor_zero ..).symm)
  have := congrArg (BitVec.getLsbD · k) hone
  simp [hk] at this

theorem modify_flipBit_ne {q : Bytes} {j k : Nat} (hj : j < q.length) (hk : k < 8) : q.modify j (flipBit k) ≠ q := by
  obtain ⟨u, b, v, rfl, -, e⟩ := List.exists_of_modify (flipBit k) hj
  rw [e]
  simpa using flipBit_ne hk b

theorem crc16_modify_flipBit_ne {c : CrcParams} {p : Bytes} {j k : Nat} (hp : c.poly ≠ 0) (hj : j < p.length)
    (hk : k < 8) : crc16 c (p.modify j (flipBit k)) ≠ crc16 c p := by
  obtain ⟨u, b, v, rfl, -, e⟩ := List.exists_of_modify (flipBit k) hj
  rw [e]
  exact oneFlippedBitChangesTheChecksum c u v b k hp hk

/-- Byte sequences of one length are told apart by their numbers. -/
theorem beNat_inj {u v : Bytes} (hl : u.length = v.length) (h : beNat u = beNat v) : u = v := by
  induction u generalizing v with
  | nil => exact (List.eq_nil_of_length_eq_zero hl.symm).symm
  | cons a u ih =>
    cases v with
    | nil => cases hl
    | cons b v =>
      have hlen : u.length = v.length := Nat.succ.inj hl
      have hu := beNat_lt u
      have hv := beNat_lt v
      rw [hlen] at hu
      rw [beNat_cons, beNat_cons, hlen, Nat.mul_comm, Nat.mul_comm b.toNat] at h
      have hab : a.toNat = b.toNat := by
        have hdiv := congrArg (· / 256 ^ v.length) h
        simpa [Nat.mul_add_div (Nat.zero_lt_of_lt hu), Nat.div_eq_of_lt hu, Nat.div_eq_of_lt hv] using hdiv
      rw [hab] at h
      rw [BitVec.eq_of_toNat_eq hab, ih hlen (Nat.add_left_cancel h)]

theorem modify_append_right {α : Type} (f : α → α) (u v : List α) (j : Nat) :
    (u ++ v).modify (u.length + j) f = u ++ v.modify j f := by
  induction u with
  | nil => simp
  | cons a u ih => simp [Nat.succ_add, ih]

theorem modify_append_left {α : Type} (f : α → α) {u : List α} (v : List α) {j : Nat} (hj : j < u.length) :
    (u ++ v).modify j f = u.modify j f ++ v := by
  obtain ⟨x, a, y, rfl, rfl, e⟩ := List.exists_of_modify f hj
  rw [e, List.append_assoc, ← Nat.add_zero x.length, modify_append_right]
  simp

theorem headerOf_length (n : Nat) : (headerOf n).length = if n ≤ 255 then 2 else 3 := by
  rw [headerOf, apply_ite List.length]
  rfl

theorem frameOf_ne_nil (c : CrcParams) (p : Bytes) : frameOf c p ≠ [] := by
  rw [← List.length_pos_iff, frameOf_length, TRAILER_BYTES]
  omega

section
variable {c : CrcParams} {reg : Registry} {p : Bytes}

/-- Whatever else was changed, two bytes that are not the payload's checksum are found out (R150). -/
theorem classify_badCrc {q : Bytes} (hp : 1 ≤ p.length) (hm : p.length ≤ MAX_PAYLOAD) (hq : q.length = CRC_BYTES)
    (hne : beNat q ≠ (crc16 c p).toNat) :
    classify c reg (headerOf p.length ++ (p ++ (q ++ [EOF_VAL]))) = .reject .badCrc := by
  have h := classify_laid_out c reg p q [] hp hm hq
  rwa [if_pos hne, List.append_nil, List.append_assoc, List.append_assoc] at h

theorem classify_frameOf {kind : Kind} (hp : 1 ≤ p.length) (hm : p.length ≤ MAX_PAYLOAD)
    (hk : Registry.find reg (byteAt p 0) = some kind) :
    classify c reg (frameOf c p) = .packet ⟨⟨frameOf c p, (headerOf p.length).length, p.length⟩, kind⟩ := by
  have h := classify_laid_out c reg p (halfBytes (crc16 c p)) [] hp hm rfl
  rwa [if_neg (not_not.mpr (beNat_halfBytes _)), List.append_nil, hk, ← frameOf_eq] at h

/-- A flipped payload bit changes the payload's checksum, a flipped checksum bit the checksum the frame carries. -/
theorem classify_flipped {j k : Nat} (hpoly : c.poly ≠ 0) (hp : 1 ≤ p.length) (hm : p.length ≤ MAX_PAYLOAD)
    (hj : j < p.length + 2) (hk : k < 8) :
    classify c reg ((frameOf c p).modify ((headerOf p.length).length + j) (flipBit k)) = .reject .badCrc := by
  have hbody : frameOf c p = headerOf p.length ++ (p ++ (halfBytes (crc16 c p) ++ [EOF_VAL])) := by
    rw [frameOf_eq, List.append_assoc, List.append_assoc]
  rw [hbody, modify_append_right]
  by_cases hjp : j < p.length
  · have hlen : (p.modify j (flipBit k)).length = p.length := List.length_modify ..
    rw [modify_append_left _ _ hjp, ← hlen]
    refine classify_badCrc (hlen ▸ hp) (hlen ▸ hm) rfl fun h => ?_
    rw [beNat_halfBytes] at h
    exact crc16_modify_flipBit_ne hpoly hjp hk (BitVec.eq_of_toNat_eq h).symm
  · obtain ⟨i, rfl⟩ := Nat.exists_eq_add_of_le (not_lt.mp hjp)
    have hi : i < (halfBytes (crc16 c p)).length := by rw [halfBytes_length]; omega
    rw [modify_append_right, modify_append_left _ _ hi]
    refine classify_badCrc hp hm (List.length_modify ..) fun h => ?_
    rw [← beNat_halfBytes] at h
    exact modify_flipBit_ne hi hk (beNat_inj (List.length_modify ..) h)

end

/-- CREATE_PACKET on a non-empty window answers the window's one result. -/
theorem execCreatePacket_result {s : State} {w : Bytes} (hl : s.live) (hw : w ≠ []) :
    ∃ t, exec (.createPacket w) s = .next t ∧ t.result = .created (classify s.cfg.crc s.registry w) := by
  obtain ⟨r, hr⟩ := createPacket_ok s.cfg.crc s.registry w s.work hw
  exact ⟨_, (unlessFaulted_live hl).trans (by rw [hr]; rfl), rfl⟩

/-- Settles O25: the unmodified frame is classified by its identifier, each flipped one as `classify_flipped` says. -/
theorem oneFlippedBitIsRejected : Obligations.OneFlippedBitIsRejected := by
  intro s p tid kind hl hpoly htid hm hreg
  obtain ⟨u, rfl⟩ : ∃ u, p = tid :: u := by
    cases p with
    | nil => cases htid
    | cons b u => cases htid; exact ⟨u, rfl⟩
  have hp : 1 ≤ (tid :: u).length := by simp
  refine ⟨?_, fun j k hj hk => ?_⟩
  · obtain ⟨t, ht, hres⟩ := execCreatePacket_result hl (frameOf_ne_nil s.cfg.crc (tid :: u))
    rw [classify_frameOf hp hm hreg] at hres
    exact ⟨t, _, ht, hres, rfl⟩
  · rw [← headerOf_length]
    have hne : (frameOf s.cfg.crc (tid :: u)).modify ((headerOf (tid :: u).length).length + j) (flipBit k) ≠ [] :=
      mt List.modify_eq_nil_iff.mp (frameOf_ne_nil _ _)
    have hres := execCreatePacket_result hl hne
    rwa [classify_flipped hpoly hp hm hj hk] at hres

end Sys2Proof.Machine

/-! ## The frame codec (41_frame_codec.md)

Each operation is one equation of the codec function behind it, run in a live state. `headerOf` is the header of both
forms, so what BUILD_FRAME lays out and what CREATE_PACKET reads back are said of the same bytes. -/

namespace Sys2Proof.Machine

/-! ### A built frame is received (R125, R144) -/

/-- CREATE_PACKET on a non-empty window: the whole next state, but for where its steps leave the transients. -/
theorem execCreatePacket_of_ne_nil {s : State} {w : Bytes} (hl : s.live) (hw : w ≠ []) :
    ∃ r : WorkRegs, exec (.createPacket w) s =
      .next { s with regFrozen := true, work := r, result := .created (classify s.cfg.crc s.registry w) } := by
  obtain ⟨r, hr⟩ := createPacket_ok s.cfg.crc s.registry w s.work hw
  exact ⟨r, (unlessFaulted_live hl).trans (by rw [hr]; rfl)⟩

/-- `FRAME(P)` passes every check of CREATE_PACKET whatever follows it, so its identifier decides (R125, R129). -/
theorem classify_frameOf_append {c : CrcParams} {reg : Registry} {p : Bytes} (t : Bytes) (hp : 1 ≤ p.length)
    (hm : p.length ≤ MAX_PAYLOAD) :
    classify c reg (frameOf c p ++ t) =
      match Registry.find reg (byteAt p 0) with
      | none => .reject .unknownType
      | some k => .packet ⟨⟨frameOf c p, (headerOf p.length).length, p.length⟩, k⟩ := by
  have h := classify_laid_out c reg p (halfBytes (crc16 c p)) t hp hm rfl
  rwa [if_neg (not_not.mpr (beNat_halfBytes _)), ← frameOf_eq] at h

/-- Settles O24: the window's one result is that of the frame at its start. -/
theorem builtFramesAreReceived : Obligations.BuiltFramesAreReceived := by
  intro s p t tid hl htid hm
  obtain ⟨u, rfl⟩ : ∃ u, p = tid :: u := List.head?_eq_some_iff.mp htid
  have hne : frameOf s.cfg.crc (tid :: u) ++ t ≠ [] := List.append_ne_nil_of_left_ne_nil (frameOf_ne_nil _ _) t
  have hp : 1 ≤ (tid :: u).length := Nat.succ_pos u.length
  obtain ⟨r, hr⟩ := execCreatePacket_of_ne_nil hl hne
  rw [classify_frameOf_append t hp hm, headerOf_length] at hr
  exact ⟨r, hr⟩

/-! ### BUILD_FRAME (R121) -/

/-- The unwritten bytes of a frame of payload length `n`: its payload and its checksum. -/
def unwrittenBytes (free : Nat → Byte) (n : Nat) : Bytes := (List.range (n + CRC_BYTES)).map free

@[simp] theorem unwrittenBytes_length (free : Nat → Byte) (n : Nat) : (unwrittenBytes free n).length = n + 2 := by
  simp [unwrittenBytes, CRC_BYTES]

/-- A size in range: the header of its form, the unwritten bytes, and EOF. -/
theorem buildFrame_ok (free : Nat → Byte) {n : Nat} (hm : n ≤ MAX_PAYLOAD) :
    buildFrame free n =
      .ok ⟨headerOf n ++ unwrittenBytes free n ++ [EOF_VAL], (headerOf n).length, n⟩ := by
  by_cases h : n ≤ SMALL_MAX
  · rw [buildFrame_small h, headerOf, if_pos h]
    rfl
  · rw [buildFrame_large (Nat.lt_of_not_le h) hm, headerOf, if_neg h]
    rfl

theorem buildFrame_error (free : Nat → Byte) {n : Int} (h : n < 0 ∨ 1024 < n) :
    buildFrame free n = .error (.payloadSize n) :=
  if_pos h

/-- The bytes of a 16-bit number by division are its bytes by shift and mask (R84). -/
theorem ofNat_shiftRight_and_mask (v : Nat) :
    [BitVec.ofNat 8 (v >>> 8), BitVec.ofNat 8 (v &&& 0xFF)] = [BitVec.ofNat 8 (v / 256), BitVec.ofNat 8 v] := by
  have hlow : BitVec.ofNat 8 (v &&& 0xFF) = BitVec.ofNat 8 v :=
    BitVec.eq_of_toNat_eq (by simp [Nat.and_two_pow_sub_one_eq_mod v 8])
  rw [hlow, Nat.shiftRight_eq_div_pow]

/-- The header in R121's own words. -/
theorem headerOf_eq (n : Nat) : headerOf n =
    if n ≤ 255 then [0x02, BitVec.ofNat 8 n]
    else [0x03, BitVec.ofNat 8 (n >>> 8), BitVec.ofNat 8 (n &&& 0xFF)] := by
  rw [ofNat_shiftRight_and_mask]
  rfl

/-- Settles O21: in range by the frame's three parts, out of range by the test that comes first. -/
theorem buildFrameLaysOutTheFrameOrFaults : Obligations.BuildFrameLaysOutTheFrameOrFaults := by
  intro s n hl
  refine ⟨fun h0 hm => ?_, fun h => ?_⟩
  · obtain ⟨k, rfl⟩ := Int.eq_ofNat_of_zero_le h0
    have hk : k ≤ MAX_PAYLOAD := Int.ofNat_le.mp hm
    simp only [Int.toNat_natCast, BitVec.ofInt_natCast, Nat.cast_le_ofNat, ← headerOf_eq, ← headerOf_length]
    refine ⟨⟨headerOf k ++ unwrittenBytes (Config.freeByte s.freeCount) k ++ [EOF_VAL], (headerOf k).length, k⟩,
      (unlessFaulted_live hl).trans (by rw [buildFrame_ok _ hk]; rfl), rfl, rfl, ?_, ?_, ?_⟩
    · simp [Nat.add_assoc]
    · rw [List.append_assoc, List.take_left]
    · exact List.drop_left' (by simp [Nat.add_assoc])
  · exact (unlessFaulted_live hl).trans (by rw [buildFrame_error _ h]; rfl)

/-! ### SEAL_FRAME (R124) -/

/-- Settles O22: the two checksum bytes are the two that `sealFrame_mid` replaces. -/
theorem sealFrameWritesTheChecksum : Obligations.SealFrameWritesTheChecksum := by
  intro s h p t x y hl v sealed
  have hbytes : sealed = h ++ p ++ halfBytes (crc16 s.cfg.crc p) ++ t := by
    rw [halfBytes_eq, ← ofNat_shiftRight_and_mask]
  rw [hbytes]
  exact (unlessFaulted_live hl).trans (by rw [sealFrame_mid]; rfl)

/-! ### EXTRACT_FRAME (R127) -/

/-- The three tests raise one fault, so together they are one test of the range. -/
theorem extractFrame_error {raw : Bytes} {off n : Nat}
    (h : ¬ (5 ≤ raw.length ∧ raw.length ≤ 1030 ∧ 1 ≤ off ∧ off + n + 1 ≤ raw.length)) :
    extractFrame raw off n = .error (.frameRange raw.length off n) := by
  unfold extractFrame
  split_ifs with hlen hoff hend
  · rfl
  · rfl
  · rfl
  · dsimp only [MIN_FRAME_SIZE, MAX_FRAME_SIZE] at hlen
    omega

/-- Settles O23, by the range and its complement. -/
theorem extractFrameChecksItsRange : Obligations.ExtractFrameChecksItsRange := by
  intro s raw off n hl
  refine ⟨fun ⟨hmin, hmax, hoff, hend⟩ => ?_, fun h => ?_⟩
  · exact (unlessFaulted_live hl).trans (by rw [extractFrame_of_range hmin hmax hoff hend]; rfl)
  · exact (unlessFaulted_live hl).trans (by rw [extractFrame_error h]; rfl)

end Sys2Proof.Machine

/-! ## The registry and its freeze (R141, R142) -/

namespace Sys2Proof.Machine

/-! ### A frozen registry stays as it is -/

/-- `t` has the registry of `s`, and it is frozen. -/
structure FrozenAs (s t : State) : Prop where
  frozen   : t.regFrozen = true
  registry : t.registry = s.registry

section
variable {s t u : State}

theorem Quiet.registry (h : Quiet s t) : t.registry = s.registry := by
  have hblock := h.block
  simp only [Machine.block, Prod.mk.injEq] at hblock
  obtain ⟨_, _, _, _, _, hreg, _⟩ := hblock
  exact hreg

theorem FrozenAs.settle (r : CreateResult) (h : FrozenAs s u) : FrozenAs s (turnState (Machine.settle r u)) := by
  obtain ⟨p, _, _, e⟩ | ⟨p, _, _, e⟩ | ⟨k, _, e⟩ | ⟨k, _, e⟩ := settle_cases r u <;> rw [e] <;>
    exact ⟨h.frozen, h.registry⟩

/-- A candidate is examined by CREATE_PACKET, which freezes the registry in any case. -/
theorem candidate_frozenAs {sof : Byte} {lenb : Nat} (h : candidate sof lenb s = .next t) : FrozenAs s t := by
  cases hr : (examined sof lenb s).2.result? with
  | some r =>
    cases (candidate_of_result hr).symm.trans h
    exact FrozenAs.settle r ⟨rfl, rfl⟩
  | none =>
    cases (candidate_of_valid (Verdict.eq_valid hr)).symm.trans h
    exact ⟨rfl, rfl⟩

variable (hz : s.regFrozen = true)
include hz

theorem lookUp_frozenAs {tid : Byte} (h : lookUp tid s = .next t) : FrozenAs s t := by
  obtain ⟨q, _, rfl⟩ | ⟨f, _, rfl⟩ := orRaise_next h
  · exact FrozenAs.settle q.2 ⟨hz, rfl⟩
  · exact ⟨hz, rfl⟩

/-- Every turn of the scan loop keeps a frozen registry. -/
theorem execScanPass_frozenAs (h : exec .scanPass s = .next t) : FrozenAs s t := by
  obtain ⟨hl, ha, ⟨_, rfl⟩ | ⟨hlock, _⟩⟩ := execScanPass_cases h
  · exact ⟨hz, rfl⟩
  obtain ⟨u, hloop, hu⟩ := scanLoop_induct (P := FrozenAs s) (Q := FrozenAs s)
    (stop := fun u hu _ => ⟨hu.frozen, hu.registry⟩)
    (skip := fun u _ _ hu _ _ _ => ⟨hu.frozen, hu.registry⟩)
    (packet := fun u _ _ hu _ _ => ⟨rfl, hu.registry⟩)
    (hang := fun u _ _ hu _ _ => ⟨rfl, hu.registry⟩)
    (wait := fun u _ _ _ _ hu _ _ _ => ⟨rfl, hu.registry⟩)
    (reject := fun u _ _ _ _ hu _ _ _ => ⟨rfl, hu.registry⟩)
    _ _ (show FrozenAs s (passBegin s) from ⟨hz, rfl⟩) (passBegin_window_length s)
  cases (execScanPass_of_loop hl ha hlock hloop).symm.trans h
  exact hu

/-- Every instruction keeps a frozen registry: only REGISTER_TYPE writes it, and that is a fault after the freeze. -/
theorem exec_frozenAs {i : Instr} (h : exec i s = .next t) : FrozenAs s t := by
  cases i with
  | registerType tid k =>
    have h := (unlessFaulted_next h).2
    rw [if_pos hz] at h
    cases h
    exact ⟨hz, rfl⟩
  | frameSmall | frameLarge =>
    obtain ⟨_, _, _, h⟩ := inPassAt_next h
    exact candidate_frozenAs h
  | nonCandidate b =>
    obtain ⟨_, _, _, h⟩ := inPassAt_next h
    cases h
    exact ⟨hz, rfl⟩
  | firmwareVersion | telemetry | unknownType _ =>
    obtain ⟨_, _, _, h⟩ := inPassAt_next h
    exact lookUp_frozenAs hz h
  | scanPass => exact execScanPass_frozenAs hz h
  | start =>
    have h := (unlessFaulted_next h).2
    split_ifs at h <;> cases h
    · exact ⟨hz, rfl⟩
    · exact ⟨rfl, rfl⟩
  | setPacketHandler | stop | rxAppend _ | loopTest =>
    have h := (unlessFaulted_next h).2
    split_ifs at h <;> cases h <;> exact ⟨hz, rfl⟩
  | _ =>
    have hq := exec_quiet rfl h
    exact ⟨hq.frozen hz, hq.registry⟩

end

/-- Settles O13, by the place the step comes from: each move but an instruction's leaves the registry alone. -/
theorem frozenRegistryNeverChanges : Obligations.FrozenRegistryNeverChanges := by
  intro s t hz h
  suffices ht : FrozenAs s t from ⟨ht.frozen, ht.registry⟩
  obtain ⟨_, ⟨_, h⟩ | ⟨_, q, rest, i, u, _, _, h⟩ | ⟨_, _, h⟩⟩ := step_cases h
  · obtain rfl | ⟨i, _, h⟩ | ⟨f, rfl⟩ := scanMove_cases h
    · exact ⟨hz, rfl⟩
    · exact exec_frozenAs hz h
    · exact ⟨hz, rfl⟩
  · obtain ⟨hfrozen, hreg⟩ := exec_frozenAs (s := { s with pending := rest }) hz h
    exact ⟨hfrozen, hreg⟩
  · obtain h | rfl | rfl := pollMove_cases h
    · exact exec_frozenAs hz h
    · exact ⟨hz, rfl⟩
    · exact ⟨hz, rfl⟩

/-! ### REGISTER_TYPE -/

section
variable {s : State} {tid : Byte} (k : Kind) (hl : s.live)
include hl

theorem execRegisterType_frozen (hz : s.regFrozen = true) :
    exec (.registerType tid k) s = .next { s with faulted := some (.registryFrozen tid) } :=
  (unlessFaulted_live hl).trans (if_pos hz)

theorem execRegisterType_present {old : Kind} (hz : s.regFrozen = false)
    (hf : Registry.find s.registry tid = some old) :
    exec (.registerType tid k) s = .next { s with faulted := some (.duplicateType tid) } :=
  (unlessFaulted_live hl).trans <| (if_neg (by simp [hz])).trans (by rw [hf]; rfl)

theorem execRegisterType_absent (hz : s.regFrozen = false) (hf : Registry.find s.registry tid = none) :
    exec (.registerType tid k) s =
      .next { s with registry := Registry.insert s.registry tid k, result := .none } :=
  (unlessFaulted_live hl).trans <| (if_neg (by simp [hz])).trans (by rw [hf]; rfl)

end

/-- Settles O14: the three cases of R141, with the entry written by `Registry.insert`. -/
theorem registerTypeWritesItsEntryOrFaults : Obligations.RegisterTypeWritesItsEntryOrFaults := by
  intro s tid k hl
  refine ⟨fun hz hf => ?_, fun hz hf => ?_, execRegisterType_frozen k hl⟩
  · exact ⟨_, execRegisterType_absent k hl hz hf, Registry.find_insert s.registry tid k⟩
  · obtain ⟨old, hold⟩ := Option.isSome_iff_exists.mp hf
    exact execRegisterType_present k hl hz hold

/-- Settles O50: a constructor reads nothing but the frame, so only the precondition is left. -/
theorem decodersStoreTheFrame : Obligations.DecodersStoreTheFrame :=
  fun _ _ hl => ⟨unlessFaulted_live hl, unlessFaulted_live hl⟩

end Sys2Proof.Machine

/-! ## CREATE_PACKET's decision (R144 to R156)

What decides a candidate stands at its start: bytes that follow change neither its header nor the length it declares.
`LacksUntil` names the one thing that more bytes do change, how many are still to come. -/

namespace Sys2Proof.Machine

/-- Settles O26: on the empty window the fault comes first, on any other the result is the window's own. -/
theorem createPacketDecidesInPriorityOrder : Obligations.CreatePacketDecidesInPriorityOrder := by
  intro s w hl
  refine ⟨?_, execCreatePacket_of_ne_nil hl⟩
  rintro rfl
  exact unlessFaulted_live hl

/-! ### What following bytes leave alone -/

section
variable {w : Bytes} (t : Bytes)

theorem byteAt_zero_append (hw : w ≠ []) : byteAt (w ++ t) 0 = byteAt w 0 :=
  byteAt_append (List.length_pos_of_ne_nil hw)

theorem headerSize_append (hw : w ≠ []) : headerSize (w ++ t) = headerSize w := by
  rw [headerSize, headerSize, byteAt_zero_append t hw]

/-- A window that holds its header holds its declared length (R84). -/
theorem declaredLength_append (hw : w ≠ []) (hh : headerSize w ≤ w.length) :
    declaredLength (w ++ t) = declaredLength w := by
  rw [declaredLength, declaredLength, byteAt_zero_append t hw]
  unfold headerSize at hh
  split_ifs at hh ⊢ with hsof
  · rw [byteAt_append (i := 1) hh]
  · rw [byteAt_append (i := 1) (Nat.lt_of_succ_lt hh), byteAt_append (i := 2) hh]

theorem totalLength_append (hw : w ≠ []) (hh : headerSize w ≤ w.length) :
    totalLength (w ++ t) = totalLength w := by
  rw [totalLength, totalLength, headerSize_append t hw, declaredLength_append t hw hh]

end

/-! ### A shortfall -/

/-- The candidate is not decided before the window has `n` bytes: its header, or the frame it declares, is not whole. -/
inductive LacksUntil (w : Bytes) : Nat → Prop
  | header (h : w.length < headerSize w) : LacksUntil w (headerSize w)
  | frame (hh : headerSize w ≤ w.length) (hmax : declaredLength w ≤ MAX_PAYLOAD) (hpos : declaredLength w ≠ 0)
      (h : w.length < totalLength w) : LacksUntil w (totalLength w)

section
variable {c : CrcParams} {reg : Registry} {w t : Bytes} {n : Nat}

theorem LacksUntil.length_lt (h : LacksUntil w n) : w.length < n := by
  cases h <;> assumption

/-- No frame is longer than R6's bound. -/
theorem LacksUntil.le_maxFrameSize (h : LacksUntil w n) : n ≤ MAX_FRAME_SIZE := by
  have hsize := headerSize_cases w
  cases h with
  | header h =>
    dsimp only [HDR_SMALL, HDR_LARGE, MAX_FRAME_SIZE] at *
    omega
  | frame hh hmax hpos h =>
    rw [totalLength]
    dsimp only [HDR_SMALL, HDR_LARGE, MAX_PAYLOAD, TRAILER_BYTES, MAX_FRAME_SIZE] at *
    omega

/-- While the bytes that come do not fill the gap, the candidate lacks bytes up to the same length. -/
theorem LacksUntil.append (h : LacksUntil w n) (hw : w ≠ []) (hlt : (w ++ t).length < n) : LacksUntil (w ++ t) n := by
  cases h with
  | header h =>
    rw [← headerSize_append t hw] at hlt ⊢
    exact .header hlt
  | frame hh hmax hpos h =>
    rw [← totalLength_append t hw hh] at hlt ⊢
    rw [← declaredLength_append t hw hh] at hmax hpos
    refine .frame ?_ hmax hpos hlt
    rw [headerSize_append t hw, List.length_append]
    omega

/-- A candidate that lacks bytes asks for just those that are missing (R154). -/
theorem classify_of_lacksUntil (hsof : ¬ (byteAt w 0 ≠ SOF_SMALL ∧ byteAt w 0 ≠ SOF_LARGE)) (h : LacksUntil w n) :
    classify c reg w = .needMore (n - w.length) := by
  cases h with
  | header h => rw [classify, if_neg hsof, if_pos h]
  | frame hh hmax hpos h =>
    rw [classify, if_neg hsof, if_neg (not_lt.mpr hh), if_neg (not_lt.mpr hmax), if_neg hpos, if_pos h]

/-- Only a candidate that lacks bytes asks for more (R154). -/
theorem lacksUntil_of_classify {k : Nat} (h : classify c reg w = .needMore k) :
    ¬ (byteAt w 0 ≠ SOF_SMALL ∧ byteAt w 0 ≠ SOF_LARGE) ∧ ∃ n, LacksUntil w n ∧ k = n - w.length := by
  unfold classify at h
  split_ifs at h with hsof hheader hmax hzero hframe
  · cases h
    exact ⟨hsof, _, .header hheader, rfl⟩
  · cases h
    exact ⟨hsof, _, .frame (not_lt.mp hheader) (not_lt.mp hmax) hzero hframe, rfl⟩
  · split at h <;> cases h

/-! ### A decision -/

/-- What decides a candidate lies within the bytes it is decided on (R156). -/
theorem classify_append (t : Bytes) (hw : w ≠ []) (hdec : ∀ k, classify c reg w ≠ .needMore k) :
    classify c reg (w ++ t) = classify c reg w := by
  by_cases hsof : byteAt w 0 ≠ SOF_SMALL ∧ byteAt w 0 ≠ SOF_LARGE
  · rw [classify, classify, byteAt_zero_append t hw, if_pos hsof, if_pos hsof]
  have lacksNone (n : Nat) : ¬ LacksUntil w n := fun h => hdec _ (classify_of_lacksUntil hsof h)
  have hh : headerSize w ≤ w.length := not_lt.mp fun h => lacksNone _ (.header h)
  have hh' : headerSize w ≤ (w ++ t).length := hh.trans (by simp)
  unfold classify
  rw [byteAt_zero_append t hw, totalLength_append t hw hh, declaredLength_append t hw hh, headerSize_append t hw,
    if_neg hsof, if_neg hsof, if_neg (not_lt.mpr hh), if_neg (not_lt.mpr hh')]
  by_cases hmax : MAX_PAYLOAD < declaredLength w
  · rw [if_pos hmax, if_pos hmax]
  by_cases hzero : declaredLength w = 0
  · rw [if_neg hmax, if_neg hmax, if_pos hzero, if_pos hzero]
  have ht : totalLength w ≤ w.length := not_lt.mp fun h => lacksNone _ (.frame hh (not_lt.mp hmax) hzero h)
  have ht' : totalLength w ≤ (w ++ t).length := ht.trans (by simp)
  have hsum : totalLength w = headerSize w + declaredLength w + 3 := rfl
  have hpayload : declaredPayload (w ++ t) = declaredPayload w := by
    rw [declaredPayload, declaredPayload, headerSize_append t hw, declaredLength_append t hw hh,
      slice_append (by omega)]
  rw [if_neg (not_lt.mpr ht), if_neg (not_lt.mpr ht'), hpayload, List.take_append_of_le_length ht,
    byteAt_append (i := totalLength w - 1) (by omega), byteAt_append (i := headerSize w) (by omega),
    slice_append (by rw [CRC_BYTES]; omega)]

end

/-- Settles O27: a decision by `classify_append`, a shortfall by the length it lasts until. -/
theorem decidedCandidatesStayDecided : Obligations.DecidedCandidatesStayDecided := by
  intro c reg w t hw
  refine ⟨classify_append t hw, fun k h => ?_⟩
  obtain ⟨hsof, n, hlacks, rfl⟩ := lacksUntil_of_classify h
  have hlt := hlacks.length_lt
  refine ⟨by omega, hlt.trans_le hlacks.le_maxFrameSize, fun htk => ?_⟩
  have hsum : (w ++ t).length = w.length + t.length := List.length_append
  rw [classify_of_lacksUntil (by rwa [byteAt_zero_append t hw]) (hlacks.append hw (by omega)), hsum, Nat.sub_sub]

end Sys2Proof.Machine

/-! ## The wire rows at a candidate (R145 to R152, R172 to R176) -/

namespace Sys2Proof.Machine

/-! ### The frame rows -/

section
variable {s : State}

theorem passEnd_of_search (hs : s.subState = .search) :
    passEnd s = { s with
      rxbuf := window s ++ s.rxWait.flatten, rxWait := [], lock := .free, scanState := .idle } := by
  rw [passEnd, ← hs]
  rfl

theorem rejectHere_of_search (e : RejectReason) (hs : s.subState = .search) :
    rejectHere e s = { s with rejLog := s.rejLog ++ [e], pos := s.pos + 1 } := by
  rw [rejectHere, ← hs]

/-- Each frame row examines the candidate of its own SOF byte (R81, R82). -/
theorem exec_frameRow {i : Instr} {b : Byte} (h : Searching s)
    (hi : i = .frameSmall ∧ b = 0x02 ∨ i = .frameLarge ∧ b = 0x03) :
    ∃ lenb, SofByte b lenb ∧ exec i s = candidate b lenb s := by
  obtain ⟨rfl, rfl⟩ | ⟨rfl, rfl⟩ := hi
  · exact ⟨1, .inl ⟨rfl, rfl⟩, inPassAt_live h.live h.inPass h.subState⟩
  · exact ⟨2, .inr ⟨rfl, rfl⟩, inPassAt_live h.live h.inPass h.subState⟩

/-- The verdict of steps 1 to 4 says what the candidate at POS is classified as. -/
theorem examined_agrees {lenb : Nat} (hb : SofByte (byteAt (window s) 0) lenb) :
    (examined (byteAt (window s) 0) lenb s).2.agrees s.cfg.crc s.registry (window s)
      (examined (byteAt (window s) 0) lenb s).1 :=
  examine_agrees s.cfg.crc s.registry _ lenb (window s) s.work hb

end

/-- Settles O38, by the verdict of steps 1 to 4, which says what the candidate is classified as. -/
theorem frameRowsClassifyTheCandidate : Obligations.FrameRowsClassifyTheCandidate := by
  intro s i r hl hp hs _ hi hr
  subst hr
  obtain ⟨lenb, hb, hexec⟩ := exec_frameRow ⟨hl, hp, hs⟩ hi
  have hagree := examined_agrees hb
  rw [hexec]
  refine ⟨(examined (byteAt (window s) 0) lenb s).1, ?_⟩
  cases hv : (examined (byteAt (window s) 0) lenb s).2 with
  | needMore k =>
    have hc : classify s.cfg.crc s.registry (window s) = .needMore k := by rwa [hv] at hagree
    rw [hc, candidate_of_result (r := .needMore k) (by rw [hv]; rfl)]
    refine ⟨fun _ _ => ?_, nofun, by simp⟩
    exact congrArg Host.Outcome.next (passEnd_of_search hs)
  | reject e =>
    obtain ⟨hc, hne⟩ : classify s.cfg.crc s.registry (window s) = .reject e ∧ e ≠ .unknownType := by rwa [hv] at hagree
    rw [hc, candidate_of_result (r := .reject e) (by rw [hv]; rfl)]
    refine ⟨nofun, ?_, by simp [hne]⟩
    rintro _ ⟨⟩ _
    exact congrArg Host.Outcome.next (rejectHere_of_search e hs)
  | valid =>
    rw [hv] at hagree
    obtain ⟨⟨hhdr, hn, htotal⟩, _, _, _, hc⟩ := hagree
    rw [hc, candidate_of_valid hv]
    -- the registry has the identifier or not, so the result is a packet or UNKNOWN_TYPE and no earlier one
    refine ⟨?_, ?_, fun _ => ⟨rfl, hhdr, hn, htotal⟩⟩ <;> cases Registry.find s.registry _ <;> simp

/-! ### The type rows -/

/-- Each type row looks its identifier up (R151). -/
theorem exec_typeRow {s : State} {i : Instr} {tid : Byte} (hl : s.live) (hp : s.scanState = .inPass)
    (hs : s.subState = .typeLookup)
    (hi : i = .firmwareVersion ∧ tid = s.cfg.tidFwVersion ∨ i = .telemetry ∧ tid = s.cfg.tidGetValues ∨
      i = .unknownType tid) : exec i s = lookUp tid s := by
  obtain ⟨rfl, rfl⟩ | ⟨rfl, rfl⟩ | rfl := hi <;> exact inPassAt_live hl hp hs

section
variable {s : State} {tid : Byte}

theorem lookUpResult_of_find {k : Kind} (h : Registry.find s.registry tid = some k) :
    lookUpResult tid s = .packet ⟨⟨(window s).take s.work.total, s.work.hdr, s.work.n.toNat⟩, k⟩ := by
  rw [lookUpResult, h]

theorem lookUpResult_of_find_none (h : Registry.find s.registry tid = none) :
    lookUpResult tid s = .reject .unknownType := by
  rw [lookUpResult, h]

variable (p : Packet)

/-- A packet whose handler call returns is passed over (R174). -/
theorem settle_packet_of_returns (h : s.handlerLeft ≠ some 0) : settle (.packet p) s = .again (afterPacket p s) :=
  if_pos ((handlerReturns_iff s).mpr h)

/-- The call that does not return uses up none that does: the scanner stays at the candidate (93 U8). -/
theorem settle_packet_of_hangs (h : s.handlerLeft = some 0) :
    settle (.packet p) s = .hung { s with pktOut := s.pktOut ++ [p], subState := .inHandler } := by
  have hr : ¬ s.handlerReturns = true := fun hr => (handlerReturns_iff s).mp hr h
  rw [settle, if_neg hr, emit, h, Option.map_some, Nat.zero_sub, ← h]

end

/-- Settles O39: the look-up of a ready candidate gives its packet or rejects it, and the scanner settles that. -/
theorem typeRowsDispatchTheCandidate : Obligations.TypeRowsDispatchTheCandidate := by
  intro s i tid hl hp hs hready hi
  rw [exec_typeRow hl hp hs hi, lookUp_of_ready hready, afterLookUp]
  refine ⟨fun k hk => ?_, fun hnone => by rw [lookUpResult_of_find_none hnone]; rfl⟩
  rw [lookUpResult_of_find hk]
  refine ⟨fun hret => ?_, fun hhang => ?_⟩
  · have hlen : ((window s).take s.work.total).length = s.work.total :=
      List.length_take_of_le hready.total_le_window
    rw [settle_packet_of_returns (s := { s with work := { s.work with tid := tid } }) _ hret, turnState, afterPacket,
      hlen]
    rfl
  · rw [settle_packet_of_hangs (s := { s with work := { s.work with tid := tid } }) _ hhang]
    rfl

end Sys2Proof.Machine

/-! ## The reassembler (43_reassembler.md)

A pass is the scan of its buffer, so what is said of passes is proved of SCAN (R179) by `scan_induct`, the induction
over the turns of a scan. -/

namespace Sys2Proof.Machine

/-! ### A pass whose handler call does not return (R251) -/

/-- The state of a pass that hangs at the last of the packets `ps`, after the rejections `rs`. -/
def passHung (s : State) (ps : List Packet) (rs : List RejectReason) (w : WorkRegs) (p : Nat) : State :=
  { s with
    pktOut := s.pktOut ++ ps, handlerLeft := some 0, rejLog := s.rejLog ++ rs, scanState := .inPass,
    subState := .inHandler, lock := .heldScan, work := w, pos := p }

section
variable {s u : State} {ps : List Packet} {rs : List RejectReason} {n : Nat}

/-- The coming calls that return are used up by the packets emitted so far, one each (log entry 18). -/
theorem PassPlace.handlerLeft (h : PassPlace s u ps rs) (hn : s.handlerLeft = some n) :
    u.handlerLeft = some (n - ps.length) := by
  obtain ⟨w, p, z, _, rfl⟩ := h.state
  simp [midPass, hn]

/-- A call that returns leaves room for the packet among the calls that do. -/
theorem PassPlace.length_lt_of_returns (h : PassPlace s u ps rs) (hn : s.handlerLeft = some n)
    (hr : u.handlerReturns = true) : ps.length < n := by
  rw [handlerReturns_iff, h.handlerLeft hn] at hr
  simp only [ne_eq, Option.some.injEq] at hr
  omega

/-- A pass ends only when it has emitted every packet of its scan. -/
theorem PassPlace.packets_of_done (h : PassPlace s u ps rs) (hrest : scanRest u = ⟨[], [], window u⟩) :
    (scanRest s).packets = ps := by
  rw [h.scan, hrest, ScanResult.after, List.append_nil]

/-- A call that does not return is that for the packet after the `n` whose calls do; what was rejected until then is
what the scan rejects first. -/
theorem PassPlace.hung {p : Packet} (r : WorkRegs) (h : PassPlace (passBegin s) u ps rs)
    (hz : s.regFrozen = true) (hn : s.handlerLeft = some n) (hle : ps.length ≤ n)
    (hc : classify u.cfg.crc u.registry (window u) = .packet p) (hr : u.handlerReturns = false) :
    rs <+: (scanRest (passBegin s)).rejects ∧ u.pos ≤ s.rxbuf.length ∧
      inHandlerOf p (freeze { u with work := r }) =
        passHung s ((scanRest (passBegin s)).packets.take (n + 1)) rs r u.pos := by
  have hleft : u.handlerLeft = some 0 := by simpa [State.handlerReturns] using hr
  have hlen : ps.length = n := by
    have hzero : n - ps.length = 0 := Option.some.inj ((h.handlerLeft hn).symm.trans hleft)
    omega
  have hscan := (h.packet r hc).scan
  have htake : (scanRest (passBegin s)).packets.take (n + 1) = ps ++ [p] := by
    rw [hscan]
    exact List.take_left' (by simp [hlen])
  obtain ⟨hin, hmin⟩ := (classify_packet_length hc).2
  rw [window_length] at hin
  dsimp only [MIN_RX_FRAME_SIZE] at hmin
  obtain ⟨w, q, z, _, rfl⟩ := h.state
  refine ⟨?_, ?_, ?_⟩
  · rw [hscan]
    exact ⟨_, rfl⟩
  · have hbuf : (midPass (passBegin s) ps rs w q z).rxbuf = s.rxbuf := rfl
    rw [hbuf] at hin
    omega
  · rw [htake]
    simp [inHandlerOf, passHung, emit, freeze, midPass, passBegin, hn, hlen, hz]

end

/-- Where the call for one of the packets does not return, SCAN_PASS hangs there (R251, 93 U8). -/
theorem execScanPass_hangs {s : State} {n : Nat} (hl : s.live) (ha : s.scanState = .armed) (hlock : s.lock = .free)
    (hz : s.regFrozen = true) (hn : s.handlerLeft = some n)
    (hlt : n < (scan s.cfg.crc s.registry s.rxbuf).packets.length) :
    ∃ w p l, l <+: (scan s.cfg.crc s.registry s.rxbuf).rejects ∧ p ≤ s.rxbuf.length ∧
      exec .scanPass s =
        .next (passHung s ((scan s.cfg.crc s.registry s.rxbuf).packets.take (n + 1)) l w p) := by
  have notDone {u : State} {ps : List Packet} {rs : List RejectReason} (h : PassPlace (passBegin s) u ps rs)
      (hle : ps.length ≤ n) : scanRest u ≠ ⟨[], [], window u⟩ := fun hrest => by
    have hps : (scan s.cfg.crc s.registry s.rxbuf).packets = ps := h.packets_of_done hrest
    rw [hps] at hlt
    omega
  obtain ⟨t, hloop, w, p, l, hpre, hp, rfl⟩ := scanLoop_induct
    (P := fun u => ∃ ps rs, PassPlace (passBegin s) u ps rs ∧ ps.length ≤ n)
    (Q := fun t => ∃ w p l, l <+: (scan s.cfg.crc s.registry s.rxbuf).rejects ∧ p ≤ s.rxbuf.length ∧
      t = passHung s ((scan s.cfg.crc s.registry s.rxbuf).packets.take (n + 1)) l w p)
    (stop := fun u ⟨ps, rs, h, hle⟩ hw => absurd (by rw [scanRest, hw, scan_nil]) (notDone h hle))
    (skip := fun u b t ⟨ps, rs, h, hle⟩ hw h1 h2 => ⟨ps, rs, h.skip hw ⟨h1, h2⟩, hle⟩)
    (packet := fun u r p ⟨ps, rs, h, hle⟩ hc hr =>
      ⟨_, _, h.packet r hc, by simpa using h.length_lt_of_returns hn hr⟩)
    (hang := fun u r p ⟨ps, rs, h, hle⟩ hc hr => ⟨r, u.pos, rs, h.hung r hz hn hle hc hr⟩)
    (wait := fun u r b t k ⟨ps, rs, h, hle⟩ _ _ hc => absurd (by rw [scanRest, scan_needMore hc]) (notDone h hle))
    (reject := fun u r b t e ⟨ps, rs, h, hle⟩ hw hb hc => ⟨_, _, h.reject r hw hb hc, hle⟩)
    _ _ ⟨[], [], passPlace_refl rfl, Nat.zero_le n⟩ (passBegin_window_length s)
  exact ⟨w, p, l, hpre, hp, execScanPass_of_loop hl ha hlock hloop⟩

/-- Settles O30: the loop invariant `PassPlace` carried to the pass's end, or to the call that does not return. -/
theorem scanPassIsTheReferenceScan : Obligations.ScanPassIsTheReferenceScan := by
  intro s hl ha hlock hz r
  refine ⟨fun hret => ?_, fun n hn hlt => execScanPass_hangs hl ha hlock hz hn hlt⟩
  obtain ⟨w, n, z, hfrozen, hexec⟩ := execScanPass_scan hl ha hlock hret
  obtain rfl : z = s.regFrozen := (hfrozen hz).trans hz.symm
  exact ⟨w, n, hexec⟩

/-! ### What a scan leaves, and what it makes of more bytes -/

section
variable {c : CrcParams} {reg : Registry}

/-- Induction over the turns of a scan (R172 to R175). -/
theorem scan_induct {motive : Bytes → Prop} (nil : motive [])
    (skip : ∀ x t, x ≠ SOF_SMALL ∧ x ≠ SOF_LARGE → motive t → motive (x :: t))
    (needMore : ∀ w k, classify c reg w = .needMore k → motive w)
    (reject : ∀ x t e, ¬ (x ≠ SOF_SMALL ∧ x ≠ SOF_LARGE) → classify c reg (x :: t) = .reject e → motive t →
      motive (x :: t))
    (packet : ∀ w p, classify c reg w = .packet p → motive (w.drop p.frame.buf.length) → motive w) (b : Bytes) :
    motive b := by
  induction hlen : b.length using Nat.strong_induction_on generalizing b with
  | _ n ih =>
    subst hlen
    cases b with
    | nil => exact nil
    | cons x t =>
      have htail : motive t := ih _ (Nat.lt_succ_self _) t rfl
      by_cases hx : x ≠ SOF_SMALL ∧ x ≠ SOF_LARGE
      · exact skip x t hx htail
      cases hc : classify c reg (x :: t) with
      | needMore k => exact needMore _ k hc
      | reject e => exact reject x t e hx hc htail
      | packet p =>
        have hmin := (classify_packet_length hc).2.2
        dsimp only [MIN_RX_FRAME_SIZE] at hmin
        refine packet _ p hc (ih _ ?_ _ rfl)
        rw [List.length_drop, List.length_cons]
        omega

/-- A scan of `a ++ d` goes on from what a scan of `a` leaves (R179). -/
theorem scan_append (a d : Bytes) :
    scan c reg (a ++ d) =
      (scan c reg ((scan c reg a).rest ++ d)).after (scan c reg a).packets (scan c reg a).rejects := by
  induction a using scan_induct (c := c) (reg := reg) with
  | nil => rfl
  | skip x t hx ih => rw [List.cons_append, scan_skip hx, scan_skip hx, ih]
  | needMore w k hc => rw [scan_needMore hc]; rfl
  | reject x t e hx hc ih =>
    have hdec : classify c reg (x :: (t ++ d)) = .reject e :=
      (classify_append d (List.cons_ne_nil x t) (by simp [hc])).trans hc
    rw [List.cons_append, scan_reject hx hdec, scan_reject hx hc, ih, ScanResult.after_after]
    rfl
  | packet w p hc ih =>
    obtain ⟨x, t, rfl, _⟩ := exists_sof_of_classify (c := c) (reg := reg) (w := w) (by simp [hc])
    have hdec : classify c reg (x :: t ++ d) = .packet p :=
      (classify_append d (List.cons_ne_nil x t) (by simp [hc])).trans hc
    have hin := (classify_packet_length hc).2.1
    rw [scan_packet hdec, scan_packet hc, List.drop_append_of_le_length hin, ih, ScanResult.after_after]
    rfl

/-- A scan leaves a suffix of its buffer (R176). -/
theorem scan_rest_suffix (b : Bytes) : (scan c reg b).rest <:+ b := by
  induction b using scan_induct (c := c) (reg := reg) with
  | nil => exact List.suffix_refl []
  | skip x t hx ih =>
    rw [scan_skip hx]
    exact ih.trans (List.suffix_cons x t)
  | needMore w k hc => rw [scan_needMore hc]
  | reject x t e hx hc ih =>
    rw [scan_reject hx hc]
    exact ih.trans (List.suffix_cons x t)
  | packet w p hc ih =>
    rw [scan_packet hc]
    exact ih.trans (List.drop_suffix _ w)

/-- What a scan leaves, if anything, is a candidate that needs more bytes (R176). -/
theorem scan_rest_undecided (b : Bytes) :
    (scan c reg b).rest = [] ∨ ∃ k, classify c reg (scan c reg b).rest = .needMore k := by
  induction b using scan_induct (c := c) (reg := reg) with
  | nil => exact .inl rfl
  | skip x t hx ih => rwa [scan_skip hx]
  | needMore w k hc =>
    rw [scan_needMore hc]
    exact .inr ⟨k, hc⟩
  | reject x t e hx hc ih => rwa [scan_reject hx hc]
  | packet w p hc ih => rwa [scan_packet hc]

/-- A candidate that needs more bytes begins with an SOF value and is shorter than the longest frame (R154, R187). -/
theorem undecided_bounds {w : Bytes} {k : Nat} (h : classify c reg w = .needMore k) :
    (byteAt w 0 = 0x02 ∨ byteAt w 0 = 0x03) ∧ w.length ≤ 1029 := by
  obtain ⟨hsof, n, hlacks, _⟩ := lacksUntil_of_classify h
  have hlt : w.length < 1030 := hlacks.length_lt.trans_le hlacks.le_maxFrameSize
  refine ⟨?_, by omega⟩
  by_contra hne
  exact hsof (not_or.mp hne)

end

/-- What a pass of a handler that always returns gives, where no chunk waits: the scan's packets, reasons and rest. -/
theorem execScanPass_next {s t : State} (hlock : s.lock = .free) (hret : s.handlerLeft = none) (hwait : s.rxWait = [])
    (h : exec .scanPass s = .next t) :
    ∃ w p z, t = { passDone s (scan s.cfg.crc s.registry s.rxbuf) w p z with
      rxbuf := (scan s.cfg.crc s.registry s.rxbuf).rest } := by
  obtain ⟨hl, ha, _⟩ := execScanPass_cases h
  obtain ⟨w, p, z, _, hexec⟩ := execScanPass_scan hl ha hlock fun n hn => absurd (hret.symm.trans hn) nofun
  refine ⟨w, p, z, ?_⟩
  cases hexec.symm.trans h
  simp [passDone, hwait]

/-- Settles O31, by `scan_append` for the three passes' buffers. -/
theorem chunkBoundariesDoNotMatter : Obligations.ChunkBoundariesDoNotMatter := by
  intro s t u v c _ _ hlock hret hwait hs ht hsc
  obtain ⟨w₁, p₁, z₁, rfl⟩ := execScanPass_next hlock hret hwait hs
  obtain ⟨w₂, p₂, z₂, rfl⟩ := execScanPass_next rfl (by simp [passDone, midPass, hret]) rfl ht
  obtain ⟨w₃, p₃, z₃, rfl⟩ := execScanPass_next (s := { s with rxbuf := s.rxbuf ++ c }) hlock hret hwait hsc
  simp [passDone, midPass, scan_append s.rxbuf c, ScanResult.after]

/-- Settles O32, by what a scan leaves and the bounds of an undecided candidate. -/
theorem passLeavesAnUndecidedCandidate : Obligations.PassLeavesAnUndecidedCandidate := by
  intro s t _ hlock hret hwait h
  obtain ⟨w, p, z, rfl⟩ := execScanPass_next hlock hret hwait h
  refine ⟨scan_rest_suffix s.rxbuf, (scan_rest_undecided s.rxbuf).imp_right fun ⟨k, hk⟩ => ?_⟩
  obtain ⟨hsof, hlen⟩ := undecided_bounds hk
  exact ⟨hsof, ⟨k, hk⟩, hlen⟩

/-! ### No received byte is a fatal fault (R259) -/

section
variable {s t : State}

theorem execRxAppend_live {chunk : Bytes} (h : exec (.rxAppend chunk) s = .next t) : t.live := by
  obtain ⟨hl, h⟩ := unlessFaulted_next h
  split_ifs at h <;> cases h <;> exact hl

theorem execLoopTest_live (h : exec .loopTest s = .next t) : t.live := by
  obtain ⟨hl, h⟩ := unlessFaulted_next h
  split_ifs at h <;> cases h <;> exact hl

/-- No turn of the scan loop raises, since CREATE_PACKET is called on windows that are not empty. -/
theorem execScanPass_live (h : exec .scanPass s = .next t) : t.live := by
  obtain ⟨hl, ha, ⟨_, rfl⟩ | ⟨hlock, _⟩⟩ := execScanPass_cases h
  · exact hl
  obtain ⟨u, hloop, hu⟩ := scanLoop_induct (P := State.live) (Q := State.live)
    (stop := fun _ hu _ => hu)
    (skip := fun _ _ _ hu _ _ _ => hu)
    (packet := fun _ _ _ hu _ _ => hu)
    (hang := fun _ _ _ hu _ _ => hu)
    (wait := fun _ _ _ _ _ hu _ _ _ => hu)
    (reject := fun _ _ _ _ _ hu _ _ _ => hu)
    _ (passBegin s) hl (passBegin_window_length s)
  cases (execScanPass_of_loop hl ha hlock hloop).symm.trans h
  exact hu

theorem execCreatePacket_live {w : Bytes} (hl : s.live) (hw : w ≠ []) (h : exec (.createPacket w) s = .next t) :
    t.live := by
  obtain ⟨r, hexec⟩ := execCreatePacket_of_ne_nil hl hw
  cases hexec.symm.trans h
  exact hl

end

/-- Settles O33, operation by operation. -/
theorem receivedBytesNeverFault : Obligations.ReceivedBytesNeverFault := by
  rintro s t chunk w hl hw (h | h | h | h)
  · exact execRxAppend_live h
  · exact execLoopTest_live h
  · exact execScanPass_live h
  · exact execCreatePacket_live hl hw h

/-! ### Receiving, starting, stopping and sending (R171, R178, R182 to R186) -/

/-- Settles O28, by the lock. -/
theorem rxAppendAppendsOrWaits : Obligations.RxAppendAppendsOrWaits := fun _ _ hl =>
  ⟨fun hfree => (unlessFaulted_live hl).trans (if_pos hfree),
    fun hheld => (unlessFaulted_live hl).trans (if_neg hheld)⟩

/-- Settles O29, by the run flag. -/
theorem loopTestObservesTheRunFlag : Obligations.LoopTestObservesTheRunFlag := fun _ hl hidle =>
  ⟨fun hrun => (unlessFaulted_live hl).trans <| (if_pos hidle).trans (if_pos hrun), execLoopTest_ends hl hidle⟩

/-- Settles O37: the row is enabled at a candidate search, and its step is `skipByte`. -/
theorem nonCandidateIsSkipped : Obligations.NonCandidateIsSkipped := fun _ _ hl hp hs => inPassAt_live hl hp hs

/-- Settles O40, by the packet handler and then the scanner's state. -/
theorem startBeginsAFreshConnection : Obligations.StartBeginsAFreshConnection := by
  intro s hl
  have hasHandler (h : s.pktHandler = .set) : s.pktHandler ≠ .unset := by simp [h]
  refine ⟨fun hset hstopped => ?_, fun hset hrunning => ?_, fun hunset => ?_⟩
  · exact (unlessFaulted_live hl).trans <| (if_neg (hasHandler hset)).trans (if_neg (not_not.mpr hstopped))
  · exact (unlessFaulted_live hl).trans <| (if_neg (hasHandler hset)).trans (if_pos hrunning)
  · exact (unlessFaulted_live hl).trans (if_pos hunset)

/-- Settles O41, by the scanner's state. -/
theorem handlersAreSetWhileStopped : Obligations.HandlersAreSetWhileStopped := fun _ hl =>
  ⟨fun hstopped =>
      ⟨(unlessFaulted_live hl).trans (if_pos hstopped), (unlessFaulted_live hl).trans (if_pos hstopped)⟩,
    fun hrunning =>
      ⟨(unlessFaulted_live hl).trans (if_neg hrunning), (unlessFaulted_live hl).trans (if_neg hrunning)⟩⟩

/-- Settles O42, by the scanner's state. -/
theorem stopClearsTheRunFlag : Obligations.StopClearsTheRunFlag := fun _ hl =>
  ⟨fun hstopped => (unlessFaulted_live hl).trans (if_pos hstopped), execStop_running hl⟩

/-- Settles O44: SEND has no precondition but the common one. -/
theorem sendAppendsTheFrame : Obligations.SendAppendsTheFrame := fun _ _ hl => unlessFaulted_live hl

end Sys2Proof.Machine

/-! ## What the command encoders build, and how their fields read back (R201 to R213) -/

namespace Sys2Proof.Machine

/-! ### The command encoders -/

/-- Settles O45: each encoder is the command of its row's identifier and field. -/
theorem encodersBuildTheCommandFrame : Obligations.EncodersBuildTheCommandFrame := by
  intro s x hl
  refine ⟨?_, ?_, ?_, ?_, ?_, ?_, ?_, ?_⟩
  all_goals
    refine command_ok _ _ _ hl ?_
    norm_num

/-! ### A command field over exact REAL decodes back (R213) -/

/-- Truncation of a number from zero on drops less than one. -/
theorem trunc_bounds_of_nonneg {q : Rat} (h : 0 ≤ q) : 0 ≤ trunc q ∧ (trunc q : Rat) ≤ q ∧ q < trunc q + 1 := by
  rw [trunc_of_nonneg h]
  exact ⟨Int.floor_nonneg.mpr h, Int.floor_le q, Int.lt_floor_add_one q⟩

/-- Truncation of a number up to zero adds less than one. -/
theorem trunc_bounds_of_nonpos {q : Rat} (h : q ≤ 0) : trunc q ≤ 0 ∧ q ≤ trunc q ∧ (trunc q : Rat) < q + 1 := by
  rw [trunc_of_nonpos h]
  exact ⟨Int.ceil_nonpos.mpr h, Int.le_ceil q, Int.ceil_lt_add_one q⟩

theorem abs_trunc_le (q : Rat) : |(trunc q : Rat)| ≤ |q| := by
  rcases le_total 0 q with h | h
  · obtain ⟨hpos, hle, -⟩ := trunc_bounds_of_nonneg h
    exact abs_le_abs_of_nonneg (mod_cast hpos) hle
  · obtain ⟨hneg, hle, -⟩ := trunc_bounds_of_nonpos h
    exact abs_le_abs_of_nonpos (mod_cast hneg) hle

/-- A signed value within the width is read back from its bits. -/
theorem signedOf_ofInt {w : Nat} {t : Int} (hw : 0 < w) (h : |t| < 2 ^ (w - 1)) :
    signedOf w (BitVec.ofInt w t).toNat = t := by
  obtain ⟨hlo, hhi⟩ := abs_lt.mp h
  rw [signedOf, BitVec.ofNat_toNat, BitVec.setWidth_eq, BitVec.toInt_ofInt_eq_self hw hlo.le hhi]

/-- UNFIX after FIX: the truncated product over the scale. -/
theorem unfix_fix_exact {x : Rat} {scale w : Nat} (hw : 0 < w) (h : |x * scale| < 2 ^ (w - 1)) :
    unfix (fix .exact (.fin x) scale w).toNat scale w = trunc (x * scale) / scale := by
  have hfit : |trunc (x * scale)| < 2 ^ (w - 1) := by exact_mod_cast (abs_trunc_le _).trans_lt h
  rw [fix_exact, unfix, signedOf_ofInt hw hfit, Rat.mkRat_eq_div]

/-- Settles O47: what truncation drops of the product is less than one, hence less than `1 / scale` of the argument. -/
theorem commandFieldsRoundTrip : Obligations.CommandFieldsRoundTrip := by
  intro x scale w hscale hw hfit
  have hs : (0 : Rat) < scale := by exact_mod_cast hscale
  rw [unfix_fix_exact (by omega) hfit]
  have below (hx : 0 ≤ x) := trunc_bounds_of_nonneg (mul_nonneg hx hs.le)
  have above (hx : x ≤ 0) := trunc_bounds_of_nonpos (mul_nonpos_of_nonpos_of_nonneg hx hs.le)
  refine ⟨?_, fun hx => (div_le_iff₀ hs).mpr (below hx).2.1, fun hx => (le_div_iff₀ hs).mpr (above hx).2.1⟩
  have herr : |(trunc (x * scale) : Rat) - x * scale| < 1 := by
    rw [abs_lt]
    rcases le_total 0 x with hx | hx
    · obtain ⟨-, hle, hlt⟩ := below hx
      constructor <;> linarith
    · obtain ⟨-, hle, hlt⟩ := above hx
      constructor <;> linarith
  calc |(trunc (x * scale) : Rat) / scale - x| = |(trunc (x * scale) : Rat) - x * scale| / scale := by
        rw [← abs_of_pos hs, ← abs_div, abs_of_pos hs, sub_div, mul_div_cancel_right₀ x hs.ne']
    _ < 1 / scale := by gcongr

end Sys2Proof.Machine

/-! ## The record accessors (R202, R220 to R230)

A telemetry accessor does what its row of R221 says (`readField_ok`, `readField_error`). A firmware accessor after the two
version bytes turns on the search for the NUL byte: without one it faults, with one (`NamedRecord`) its place is known. -/

namespace Sys2Proof.Machine

/-! ### Byte accessors -/

section
variable {p : Bytes} {a : Nat}

/-- The end of a byte accessor whose byte lies in the payload. -/
theorem readByteResult_ok (h : a < p.length) :
    (memRead .payload p a 1 >>= fun v => pure (CallResult.byte (BitVec.ofNat 8 v))) = .ok (.byte (byteAt p a)) := by
  rw [memRead_one h]
  exact congrArg (Except.ok ∘ CallResult.byte) ((byteAt p a).ofNat_toNat 8)

/-- The end of a byte accessor whose byte lies beyond the payload. -/
theorem readByteResult_error (h : p.length ≤ a) :
    (memRead .payload p a 1 >>= fun v => pure (CallResult.byte (BitVec.ofNat 8 v))) =
      .error (.accessRange .payload a 1) := by
  rw [memRead_error (Nat.lt_succ_of_le h)]
  rfl

end

/-! ### Telemetry fields -/

/-- Where a reading takes its bytes. -/
def Reading.pos : Reading → FieldPos
  | .scaled pos _ => pos
  | .rawInt pos => pos
  | .rawByte pos => pos

/-- What a reading gives on a payload `p` that holds its field. -/
def Reading.value (t : RealType) (p : Bytes) : Reading → CallResult
  | .scaled pos scale =>
    .real (toReal t (unfix (beNat (slice p pos.off (widthBytes pos.w))) scale (8 * widthBytes pos.w)))
  | .rawInt pos => .int (signedOf (8 * widthBytes pos.w) (beNat (slice p pos.off (widthBytes pos.w))))
  | .rawByte pos => .byte (byteAt p pos.off)

section
variable {t : RealType} {p : Bytes} {r : Reading}

/-- A field wholly inside the payload is read. -/
theorem readField_ok (h : r.pos.off + widthBytes r.pos.w ≤ p.length) : readField t p r = .ok (r.value t p) := by
  have hread := memRead_ok (sp := .payload) h
  cases r with
  | scaled pos scale => exact congrArg (· >>= _) hread
  | rawInt pos => exact congrArg (· >>= _) hread
  | rawByte pos =>
    have hwidth : 1 ≤ widthBytes pos.w := by cases pos.w <;> decide
    have hbyte : pos.off < p.length := Nat.lt_of_lt_of_le (Nat.lt_add_of_pos_right hwidth) h
    have hread : memRead .payload p pos.off (widthBytes pos.w) = _ := hread
    rw [readField, hread]
    exact readByteResult_ok hbyte

/-- A field not wholly inside the payload raises ACCESS_RANGE, however it is read (R222). -/
theorem readField_error (h : p.length < r.pos.off + widthBytes r.pos.w) :
    readField t p r = .error (.accessRange .payload r.pos.off (widthBytes r.pos.w)) := by
  have hread := memRead_error (sp := .payload) h
  cases r <;> exact congrArg (· >>= _) hread

end

/-- A telemetry accessor reads the field its row of R221 places, or faults. -/
theorem decTelemetry_access {s : State} {a : TelField} {r : Reading} (hl : s.live) (f : Frame)
    (hrow : telReading s.cfg.tel a = r) :
    (r.pos.off + widthBytes r.pos.w ≤ (payload f).length →
      exec (.decTelemetry (.access a) f) s = .next { s with result := r.value s.cfg.real (payload f) }) ∧
    ((payload f).length < r.pos.off + widthBytes r.pos.w →
      exec (.decTelemetry (.access a) f) s =
        .next { s with faulted := some (.accessRange .payload r.pos.off (widthBytes r.pos.w)) }) := by
  have hexec : exec (.decTelemetry (.access a) f) s =
      orRaise s (readField s.cfg.real (payload f) r) fun v => returns v s := by
    rw [← hrow]
    exact unlessFaulted_live hl
  rw [hexec]
  refine ⟨fun hin => ?_, fun hout => ?_⟩
  · rw [readField_ok hin]
    rfl
  · rw [readField_error hout]
    rfl

/-- Settles O52: every row of the table is a row of `telReading`. -/
theorem telemetryAccessorsReadOrFault : Obligations.TelemetryAccessorsReadOrFault := by
  intro s f hl
  refine ⟨fun row hrow => ?_, fun row hrow => ?_, fun row hrow => ?_⟩
  · refine decTelemetry_access (r := .scaled row.2.1 row.2.2) hl f ?_
    revert row
    simp [telReading]
  · refine decTelemetry_access (r := .rawInt row.2) hl f ?_
    revert row
    simp [telReading]
  · refine decTelemetry_access (r := .rawByte row.2) hl f ?_
    revert row
    simp [telReading]

/-- Settles O51: the row of `temp_fet` on the two bytes, and its quotient in the two examples. -/
theorem tempFetIsTenthsOfADegree : Obligations.TempFetIsTenthsOfADegree := by
  intro s f t hi lo rest hl
  obtain ⟨hread, hshort⟩ := decTelemetry_access (a := .tempFet) (r := .scaled ⟨1, .w16⟩ 10) hl f rfl
  have general (hi lo : Byte) (hp : payload f = t :: hi :: lo :: rest) :
      exec (.decTelemetry (.access .tempFet) f) s =
        .next { s with result := .real (toReal s.cfg.real (mkRat (hi ++ lo : Half).toInt 10)) } := by
    have hbits : BitVec.ofNat 16 (beNat [hi, lo]) = hi ++ lo := by
      rw [← half_toNat_eq_beNat, BitVec.ofNat_toNat, BitVec.setWidth_eq]
      rfl
    rw [hread (by rw [hp]; simp [Reading.pos, widthBytes]), hp, ← hbits]
    rfl
  refine ⟨general hi lo, fun hreal hp => ?_, fun hreal hp => ?_, hshort⟩
  · rw [general _ _ hp, hreal]
    have : mkRat ((0x00 : Byte) ++ (0x96 : Byte) : Half).toInt 10 = 15 := by decide +kernel
    rw [this]
    rfl
  · rw [general _ _ hp, hreal]
    have : mkRat ((0xFF : Byte) ++ (0x9C : Byte) : Half).toInt 10 = -10 := by decide +kernel
    rw [this]
    rfl

/-! ### The search for the NUL byte -/

theorem findNul_ok {name : Bytes} (rest : Bytes) (i : Nat) (hname : ∀ b ∈ name, b ≠ 0) :
    findNul (name ++ 0x00 :: rest) i = .ok (i + name.length) := by
  induction name generalizing i with
  | nil => rfl
  | cons b name ih =>
    obtain ⟨hb, hname⟩ := List.forall_mem_cons.mp hname
    rw [List.cons_append, findNul, if_neg hb, ih _ hname, List.length_cons, Nat.add_assoc, Nat.add_comm 1]

theorem findNul_error {t : Bytes} (i : Nat) (ht : ∀ b ∈ t, b ≠ 0) :
    findNul t i = .error (.accessRange .payload (i + t.length) 1) := by
  induction t generalizing i with
  | nil => rfl
  | cons b t ih =>
    obtain ⟨hb, ht⟩ := List.forall_mem_cons.mp ht
    rw [findNul, if_neg hb, ih _ ht, List.length_cons, Nat.add_assoc, Nat.add_comm 1]

theorem nulIndex_error {p : Bytes} (hp : ∀ b ∈ p.drop 3, b ≠ 0) :
    nulIndex p = .error (.accessRange .payload (max 3 p.length) 1) := by
  rw [nulIndex, findNul_error 3 hp, List.length_drop, Nat.add_comm, Nat.sub_add_eq_max, Nat.max_comm]

/-! ### What the accessors read -/

/-- Without a NUL byte the name and every later accessor raise the fault of the search. -/
theorem readFw_no_nul {p : Bytes} (hp : ∀ b ∈ p.drop 3, b ≠ 0) :
    ∀ a ∈ [FwField.hwName, .uuid, .paired, .deviceVersion],
      readFw p a = .error (.accessRange .payload (max 3 p.length) 1) := by
  simp only [List.forall_mem_cons]
  refine ⟨?_, ?_, ?_, ?_, by simp⟩ <;> exact congrArg (· >>= _) (nulIndex_error hp)

/-- A payload with a NUL byte at or after offset 3: the name before it and what follows it. -/
structure NamedRecord (p name rest : Bytes) : Prop where
  spelled : p.drop 3 = name ++ 0x00 :: rest
  noNul : ∀ b ∈ name, b ≠ 0

section
variable {p name rest : Bytes}

theorem NamedRecord.of_append {h : Bytes} (hp : p = h ++ name ++ 0x00 :: rest) (hlen : h.length = 3)
    (hname : ∀ b ∈ name, b ≠ 0) : NamedRecord p name rest :=
  ⟨by rw [hp, List.append_assoc, List.drop_left' hlen], hname⟩

variable (hr : NamedRecord p name rest)
include hr

theorem NamedRecord.nulIndex : nulIndex p = .ok (3 + name.length) := by
  rw [Machine.nulIndex, hr.spelled, findNul_ok rest _ hr.noNul]

theorem NamedRecord.length : p.length = 3 + name.length + 1 + rest.length := by
  have := congrArg List.length hr.spelled
  simp only [List.length_drop, List.length_append, List.length_cons] at this
  omega

theorem NamedRecord.slice_name : slice p 3 name.length = name := by
  rw [slice, hr.spelled, List.take_left]

theorem NamedRecord.drop : p.drop (3 + name.length + 1) = rest := by
  rw [Nat.add_assoc, ← List.drop_drop, hr.spelled, ← List.drop_drop, List.drop_left]
  rfl

theorem NamedRecord.byteAt (i : Nat) : byteAt p (3 + name.length + 1 + i) = Machine.byteAt rest i := by
  simp only [Machine.byteAt, List.getD_eq_getElem?_getD, ← hr.drop, List.getElem?_drop]

theorem NamedRecord.hwName : readFw p .hwName = .ok (.bytes name) := by
  rw [readFw, hr.nulIndex]
  refine congrArg (Except.ok ∘ CallResult.bytes) ?_
  rw [Nat.add_sub_cancel_left, hr.slice_name]

theorem NamedRecord.uuid : readFw p .uuid =
    if 12 ≤ rest.length then .ok (.bytes (rest.take 12))
    else .error (.accessRange .payload (3 + name.length + 1) 12) := by
  have hread : readFw p .uuid = memBlock .payload p (3 + name.length + 1) 12 >>= fun b => pure (.bytes b) := by
    rw [readFw, hr.nulIndex]
    rfl
  have hlen := hr.length
  rw [hread]
  split_ifs with h
  · rw [memBlock_ok (by omega), slice, hr.drop]
    rfl
  · rw [memBlock_error (by omega)]
    rfl

/-- The two byte accessors after the UUID, by their byte's offset after the NUL. -/
theorem NamedRecord.readFw_byte {a : FwField} {i : Nat} (ha : a = .paired ∧ i = 12 ∨ a = .deviceVersion ∧ i = 13) :
    readFw p a =
      if i < rest.length then .ok (.byte (Machine.byteAt rest i))
      else .error (.accessRange .payload (3 + name.length + 1 + i) 1) := by
  have hread : readFw p a =
      memRead .payload p (3 + name.length + 1 + i) 1 >>= fun v => pure (.byte (BitVec.ofNat 8 v)) := by
    rcases ha with ⟨rfl, rfl⟩ | ⟨rfl, rfl⟩ <;> · rw [readFw, hr.nulIndex]; rfl
  have hlen := hr.length
  rw [hread]
  split_ifs with h
  · rw [readByteResult_ok (by omega), hr.byteAt]
  · exact readByteResult_error (by omega)

end

/-! ### The accessors as operations -/

section
variable {s : State} {f : Frame} {a : FwField} (hl : s.live)
include hl

theorem exec_decFwVersion_access :
    exec (.decFwVersion (.access a) f) s = orRaise s (readFw (payload f) a) fun r => returns r s :=
  unlessFaulted_live hl

theorem decFwVersion_ok {v : CallResult} (h : readFw (payload f) a = .ok v) :
    exec (.decFwVersion (.access a) f) s = .next { s with result := v } := by
  rw [exec_decFwVersion_access hl, h]
  rfl

theorem decFwVersion_error {e : FatalFault} (h : readFw (payload f) a = .error e) :
    exec (.decFwVersion (.access a) f) s = .next { s with faulted := some e } := by
  rw [exec_decFwVersion_access hl, h]
  rfl

end

/-- Settles O54: the two bytes before the name by their place; all else by whether the search finds a NUL byte. -/
theorem shortFirmwareRecordsAreOutOfRange : Obligations.ShortFirmwareRecordsAreOutOfRange := by
  intro s f hl gives faults
  refine ⟨fun h => ?_, fun h => ?_, fun h => ?_, fun h => ?_, fun hnone a ha => ?_, fun h name rest hp hlen hname => ?_⟩
  · exact decFwVersion_ok hl (readByteResult_ok h)
  · exact decFwVersion_error hl (readByteResult_error (Nat.le_of_lt_succ h))
  · exact decFwVersion_ok hl (readByteResult_ok h)
  · exact decFwVersion_error hl (readByteResult_error (Nat.le_of_lt_succ h))
  · exact decFwVersion_error hl (readFw_no_nul hnone a ha)
  · have hr := NamedRecord.of_append hp hlen hname
    have hpaired := hr.readFw_byte (.inl ⟨rfl, rfl⟩)
    have hdevice := hr.readFw_byte (.inr ⟨rfl, rfl⟩)
    refine ⟨decFwVersion_ok hl hr.hwName, fun h => ?_, fun h => ?_, fun h => ?_, fun h => ?_, fun h => ?_, fun h => ?_⟩
    · exact decFwVersion_ok hl (hr.uuid.trans (if_pos h))
    · exact decFwVersion_error hl (hr.uuid.trans (if_neg (Nat.not_le.mpr h)))
    · exact decFwVersion_ok hl (hpaired.trans (if_pos h))
    · exact decFwVersion_error hl (hpaired.trans (if_neg (Nat.not_lt.mpr (Nat.le_of_lt_succ h))))
    · exact decFwVersion_ok hl (hdevice.trans (if_pos h))
    · exact decFwVersion_error hl (hdevice.trans (if_neg (Nat.not_lt.mpr (Nat.le_of_lt_succ h))))

/-- Settles O53, by the accessors' cases on a payload with a NUL byte: none of the record's fields passes its end. -/
theorem firmwareRecordFieldsAreRead : Obligations.FirmwareRecordFieldsAreRead := by
  intro s f tid major minor pairedFlag device name uuid rest hl hp hname huuid
  have hspelled : payload f = [tid, major, minor] ++ name ++ 0x00 :: (uuid ++ pairedFlag :: device :: rest) := by
    simpa using hp
  obtain ⟨hmajor, -, hminor, -, -, hnamed⟩ := shortFirmwareRecordsAreOutOfRange s f hl
  obtain ⟨hhwName, huuidRead, -, hpaired, -, hdevice, -⟩ := hnamed _ _ _ hspelled rfl hname
  have hhead : 3 ≤ (payload f).length := by rw [hspelled]; simp
  have htail : 14 ≤ (uuid ++ pairedFlag :: device :: rest).length := by simp [huuid]; omega
  have hmajorByte : byteAt (payload f) 1 = major := by rw [hspelled]; rfl
  have hminorByte : byteAt (payload f) 2 = minor := by rw [hspelled]; rfl
  have huuidBytes : (uuid ++ pairedFlag :: device :: rest).take 12 = uuid := by rw [← huuid, List.take_left]
  have hpairedByte : byteAt (uuid ++ pairedFlag :: device :: rest) 12 = pairedFlag := by simp [byteAt, ← huuid]
  have hdeviceByte : byteAt (uuid ++ pairedFlag :: device :: rest) 13 = device := by
    simp [byteAt, show 13 = uuid.length + 1 by omega]
  refine ⟨?_, ?_, hhwName, ?_, ?_, ?_⟩
  · exact hmajorByte ▸ hmajor (by omega)
  · exact hminorByte ▸ hminor hhead
  · exact huuidBytes ▸ huuidRead (by omega)
  · exact hpairedByte ▸ hpaired (by omega)
  · exact hdeviceByte ▸ hdevice htail

end Sys2Proof.Machine

/-! ## Binary REALs (R203)

`roundBinary` is taken apart once: it gives `n * 2 ^ k` with `RoundsTo f e q n k`, or an infinity where that is out of range.
What a rounding satisfies is then shown from `RoundsTo` alone, for both signs at once. -/

namespace Sys2Proof.Machine

/-! ### The nearest whole number -/

/-- Where two whole numbers are equally near, `nearestEven` takes the even one. -/
theorem even_nearestEven_of_tie {n d : Nat} (hd : 0 < d)
    (h : 2 * (d * nearestEven n d) = 2 * n + d ∨ 2 * n = 2 * (d * nearestEven n d) + d) : Even (nearestEven n d) := by
  have h1 := Nat.div_add_mod n d
  have h2 := Nat.mod_lt n hd
  unfold nearestEven at h ⊢
  dsimp only at h ⊢
  split_ifs at h ⊢ with h3 h4
  · omega
  · rw [Nat.mul_add] at h
    omega
  · rw [Nat.even_iff]
    omega

theorem nearestEven_near {a : Rat} (ha : 0 ≤ a) :
    |(nearestEven a.num.natAbs a.den : Rat) - a| ≤ 1 / 2 ∧
      (|(nearestEven a.num.natAbs a.den : Rat) - a| = 1 / 2 → Even (nearestEven a.num.natAbs a.den)) := by
  obtain ⟨hle, hge⟩ := nearestEven_spec a.num.natAbs a.den_pos
  have htie := even_nearestEven_of_tie (n := a.num.natAbs) a.den_pos
  generalize nearestEven a.num.natAbs a.den = m at *
  have hd : (0 : Rat) < a.den := by exact_mod_cast a.den_pos
  have hnum : (a.num.natAbs : Rat) = a * a.den := by
    rw [Nat.cast_natAbs, abs_of_nonneg (Rat.num_nonneg.mpr ha), Rat.mul_den_eq_num]
  have hle' : (2 * (a.den * m) : Rat) ≤ 2 * (a * a.den) + a.den := by rw [← hnum]; exact_mod_cast hle
  have hge' : (2 * (a * a.den) : Rat) ≤ 2 * (a.den * m) + a.den := by rw [← hnum]; exact_mod_cast hge
  refine ⟨abs_le.mpr ⟨by nlinarith, by nlinarith⟩, fun h => htie ?_⟩
  have hcast : (2 * (a.den * m) : Rat) = 2 * a.num.natAbs + a.den ∨ (2 * a.num.natAbs : Rat) = 2 * (a.den * m) + a.den := by
    rw [hnum]
    rcases (abs_eq (by norm_num)).mp h with h | h
    · left; rw [sub_eq_iff_eq_add.mp h]; ring
    · right; rw [sub_eq_iff_eq_add.mp h]; ring
  exact_mod_cast hcast

/-! ### What `roundBinary` computes -/

/-- `n * 2 ^ k` is the rounding of `q` in a binary type of `f` fraction bits and greatest exponent `e`, its upper bound left
aside: `k` is the exponent of the last place of a number of `q`'s size, and `n` the nearest whole number of such places, of
two equally near ones the even one. -/
structure RoundsTo (f e : Nat) (q : Rat) (n k : Int) : Prop where
  least : 1 - (e : Int) - f ≤ k
  below : |q| < (2 : Rat) ^ (k + f + 1)
  normal : k = 1 - (e : Int) - f ∨ (2 : Rat) ^ (k + f) ≤ |q|
  near : |n * (2 : Rat) ^ k - q| ≤ 2 ^ k / 2
  even_of_tie : |n * (2 : Rat) ^ k - q| = 2 ^ k / 2 → Even n

theorem RoundsTo.zero (f e : Nat) : RoundsTo f e 0 0 (1 - (e : Int) - f) where
  least := le_rfl
  below := by rw [abs_zero]; positivity
  normal := .inl rfl
  near := by simp; positivity
  even_of_tie _ := Even.zero

theorem RoundsTo.neg {f e : Nat} {q : Rat} {n k : Int} (h : RoundsTo f e q n k) : RoundsTo f e (-q) (-n) k := by
  have herr : |((-n : Int) : Rat) * 2 ^ k - -q| = |n * (2 : Rat) ^ k - q| := by
    rw [Int.cast_neg, ← abs_neg]
    congr 1
    ring
  exact ⟨h.least, by rw [abs_neg]; exact h.below, by rw [abs_neg]; exact h.normal, herr ▸ h.near,
    fun ht => (h.even_of_tie (herr ▸ ht)).neg⟩

theorem natAbs_num_div_den (q : Rat) : (q.num.natAbs : Rat) / q.den = |q| := by
  rw [Nat.cast_natAbs, Int.cast_abs, ← Nat.abs_cast q.den, ← abs_div, Rat.num_div_den]

/-- The rounding of a number's size, in the words of `roundBinary`. -/
theorem roundsTo_lastPlace {f e m : Nat} {q : Rat} {k : Int} (hq : 0 < |q|)
    (hplace : lastPlace f e q.num.natAbs q.den = k)
    (hnearest : nearestEven (|q| / 2 ^ k).num.natAbs (|q| / 2 ^ k).den = m) : RoundsTo f e |q| m k := by
  have hk : (0 : Rat) < 2 ^ k := by positivity
  obtain ⟨hnear, htie⟩ := nearestEven_near (div_nonneg hq.le hk.le)
  obtain ⟨hlow, hhigh⟩ := floorLog2_spec (n := q.num.natAbs) (d := q.den) (by simpa using hq) q.den_pos
  rw [natAbs_num_div_den] at hlow hhigh
  rw [hnearest] at hnear htie
  have herr : |((m : Int) : Rat) * 2 ^ k - (|q|)| = |(m : Rat) - |q| / 2 ^ k| * 2 ^ k := by
    rw [← abs_of_pos hk, ← abs_mul, sub_mul, abs_of_pos hk, div_mul_cancel₀ _ hk.ne', Int.cast_natCast]
  have hmax : k = max (floorLog2 q.num.natAbs q.den - f) (1 - (e : Int) - f) := hplace.symm
  refine ⟨by omega, ?_, ?_, ?_, ?_⟩
  · rw [abs_abs]
    exact hhigh.trans_le (zpow_le_zpow_right₀ one_le_two (by omega))
  · rw [abs_abs]
    rcases max_choice (floorLog2 q.num.natAbs q.den - f) (1 - (e : Int) - f) with h | h
    · right
      rwa [hmax, h, sub_add_cancel]
    · exact .inl (hmax.trans h)
  · rw [herr]
    linarith [mul_le_mul_of_nonneg_right hnear hk.le]
  · rw [herr, Int.even_coe_nat]
    intro h
    exact htie (mul_right_cancel₀ hk.ne' (h.trans (by ring)))

/-- What `roundBinary` computes, said once. -/
theorem roundBinary_spec (f e : Nat) (q : Rat) :
    ∃ n k : Int, RoundsTo f e q n k ∧
      roundBinary f e q =
        if (2 : Rat) ^ (e + 1) ≤ |n * (2 : Rat) ^ k| then (if 0 < q then .posInf else .negInf)
        else .fin (n * 2 ^ k) := by
  by_cases hq : q = 0
  · subst hq
    refine ⟨0, _, .zero f e, ?_⟩
    have : ¬ (2 : Rat) ^ (e + 1) ≤ 0 := not_le.mpr (by positivity)
    simp [roundBinary, this]
  · have hnum : q.num ≠ 0 := Rat.num_ne_zero.mpr hq
    have hbound : pow2 (e + 1) = (2 : Rat) ^ (e + 1) := by rw [pow2_eq]; norm_cast
    simp only [roundBinary, if_neg hnum, hbound, pow2_eq, Rat.mkRat_eq_div, Int.cast_natCast, natAbs_num_div_den,
      Rat.num_pos, Nat.cast_one, div_one]
    generalize hplace : lastPlace f e q.num.natAbs q.den = k
    generalize hnearest : nearestEven (|q| / 2 ^ k).num.natAbs (|q| / 2 ^ k).den = m
    have hround := roundsTo_lastPlace (abs_pos.mpr hq) hplace hnearest
    have hm : |(m : Rat) * 2 ^ k| = m * 2 ^ k := abs_of_nonneg (by positivity)
    rcases lt_or_gt_of_ne hq with hneg | hpos
    · refine ⟨-m, k, ?_, ?_⟩
      · simpa [abs_of_neg hneg] using hround.neg
      · simp [hneg.not_gt, hm]
    · refine ⟨m, k, ?_, ?_⟩
      · simpa [abs_of_pos hpos] using hround
      · simp [hpos, hm]

/-! ### What a rounding satisfies -/

theorem two_pow_mul_zpow (j : Nat) (k : Int) : (2 : Rat) ^ j * 2 ^ k = 2 ^ (k + j) := by
  rw [zpow_add₀ two_ne_zero, zpow_natCast, mul_comm]

section
variable {f e : Nat} {q : Rat} {n k : Int} (h : RoundsTo f e q n k)
include h

/-- Of the multiples of the last place none is nearer, and where another is equally near, the significand is even. -/
theorem RoundsTo.nearest_multiple (c : Int) :
    |n * (2 : Rat) ^ k - q| ≤ |c * (2 : Rat) ^ k - q| ∧
      (c ≠ n → |c * (2 : Rat) ^ k - q| = |n * (2 : Rat) ^ k - q| → Even n) := by
  by_cases hc : c = n
  · simp [hc]
  have hk : (0 : Rat) < 2 ^ k := by positivity
  have hgap : (2 : Rat) ^ k ≤ |c * (2 : Rat) ^ k - n * 2 ^ k| := by
    have hone : (1 : Rat) ≤ |(c : Rat) - n| := by exact_mod_cast Int.one_le_abs (sub_ne_zero.mpr hc)
    rw [← sub_mul, abs_mul, abs_of_pos hk]
    exact le_mul_of_one_le_left hk.le hone
  have htriangle := abs_sub_le (c * (2 : Rat) ^ k) q (n * 2 ^ k)
  rw [abs_sub_comm q] at htriangle
  have hnear := h.near
  exact ⟨by linarith, fun _ heq => h.even_of_tie (by linarith)⟩

/-- A value of the type with a finer last place is smaller than the normal numbers of `q`'s size, so it is farther off. -/
theorem RoundsTo.multiple_or_farther {v : Rat} (hv : BinaryValue f e v) :
    (∃ c : Int, v = c * 2 ^ k) ∨ |n * (2 : Rat) ^ k - q| < |v - q| := by
  obtain ⟨m, j, hm, hj, rfl⟩ := hv
  rcases le_or_gt k j with hkj | hjk
  · refine .inl ⟨m * 2 ^ (j - k).toNat, ?_⟩
    push_cast
    rw [mul_assoc, two_pow_mul_zpow, Int.toNat_of_nonneg (by omega), add_sub_cancel]
  · right
    have hnormal : (2 : Rat) ^ (k + f) ≤ |q| := h.normal.resolve_left (by omega)
    have hsmall : |m * (2 : Rat) ^ j| < 2 ^ (k + f) := by
      have hm' : |(m : Rat)| < 2 ^ (f + 1) := by exact_mod_cast hm
      calc |m * (2 : Rat) ^ j| = |(m : Rat)| * 2 ^ j := by rw [abs_mul, abs_of_pos (by positivity : (0 : Rat) < 2 ^ j)]
        _ < 2 ^ (f + 1) * 2 ^ j := by gcongr
        _ = 2 ^ (j + (f + 1 : Nat)) := two_pow_mul_zpow ..
        _ ≤ 2 ^ (k + f) := zpow_le_zpow_right₀ one_le_two (by push_cast; omega)
    have hfar := abs_sub_abs_le_abs_sub q (m * (2 : Rat) ^ j)
    rw [abs_sub_comm] at hfar
    obtain ⟨c, hc⟩ : ∃ c : Int, |c * (2 : Rat) ^ k - q| = |q| - 2 ^ (k + f) := by
      have hpow : ((2 ^ f : Int) : Rat) * 2 ^ k = 2 ^ (k + f) := by exact_mod_cast two_pow_mul_zpow f k
      rcases le_total 0 q with hq | hq
      · rw [abs_of_nonneg hq] at hnormal ⊢
        exact ⟨2 ^ f, by rw [hpow, abs_sub_comm, abs_of_nonneg (sub_nonneg.mpr hnormal)]⟩
      · rw [abs_of_nonpos hq] at hnormal ⊢
        refine ⟨-2 ^ f, ?_⟩
        rw [Int.cast_neg, neg_mul, hpow, ← neg_add', abs_neg, abs_of_nonpos (by linarith)]
        ring
    have := (h.nearest_multiple c).1
    linarith

theorem RoundsTo.nearest {v : Rat} (hv : BinaryValue f e v) : |n * (2 : Rat) ^ k - q| ≤ |v - q| := by
  rcases h.multiple_or_farther hv with ⟨c, rfl⟩ | hfar
  · exact (h.nearest_multiple c).1
  · exact hfar.le

theorem RoundsTo.even_of_equally_near {v : Rat} (hv : BinaryValue f e v) (hne : v ≠ n * 2 ^ k)
    (heq : |v - q| = |n * (2 : Rat) ^ k - q|) : Even n := by
  rcases h.multiple_or_farther hv with ⟨c, rfl⟩ | hfar
  · exact (h.nearest_multiple c).2 (fun hc => hne (hc ▸ rfl)) heq
  · exact absurd heq hfar.ne'

/-- A value of the type is its own rounding. -/
theorem RoundsTo.eq_of_binaryValue (hq : BinaryValue f e q) : n * (2 : Rat) ^ k = q := by
  have := h.nearest hq
  rwa [sub_self, abs_zero, abs_nonpos_iff, sub_eq_zero] at this

/-- The size of the rounding is within half a last place of that of the number. -/
theorem RoundsTo.abs_bounds :
    |q| ≤ |(n : Rat)| * 2 ^ k + 2 ^ k / 2 ∧ |(n : Rat)| * 2 ^ k ≤ |q| + 2 ^ k / 2 ∧
      (|q| = |(n : Rat)| * 2 ^ k + 2 ^ k / 2 → Even n) := by
  have hk : (0 : Rat) < 2 ^ k := by positivity
  have habs : |(n : Rat)| * 2 ^ k = |n * (2 : Rat) ^ k| := by rw [abs_mul, abs_of_pos hk]
  have hnear := h.near
  have hup := abs_sub_abs_le_abs_sub q (n * (2 : Rat) ^ k)
  have hdown := abs_sub_abs_le_abs_sub (n * (2 : Rat) ^ k) q
  rw [abs_sub_comm] at hup
  rw [habs]
  exact ⟨by linarith, by linarith, fun heq => h.even_of_tie (by linarith)⟩

/-- The significand of a rounding is one of the type, or the power of two just above, which the next exponent takes. -/
theorem RoundsTo.exists_significand :
    ∃ m j : Int, |m| < 2 ^ (f + 1) ∧ 1 - (e : Int) - f ≤ j ∧ n * (2 : Rat) ^ k = m * 2 ^ j ∧
      (1 ≤ f → Even n → Even m) := by
  have hk : (0 : Rat) < 2 ^ k := by positivity
  have hle : |n| < 2 ^ (f + 1) + 1 := by
    obtain ⟨-, hup, -⟩ := h.abs_bounds
    have hbelow := h.below
    have hpow : (2 : Rat) ^ (k + f + 1) = 2 ^ (f + 1) * 2 ^ k := by rw [two_pow_mul_zpow, add_assoc, Nat.cast_succ]
    have : |(n : Rat)| * 2 ^ k < (2 ^ (f + 1) + 1) * 2 ^ k := by linarith
    exact_mod_cast lt_of_mul_lt_mul_right this hk.le
  rcases lt_or_eq_of_le (Int.le_of_lt_add_one hle) with hlt | heq
  · exact ⟨n, k, hlt, h.least, rfl, fun _ hn => hn⟩
  · have hdouble (m : Int) : ((2 * m : Int) : Rat) * 2 ^ k = m * 2 ^ (k + 1) := by
      rw [zpow_add_one₀ two_ne_zero]
      push_cast
      ring
    have hleast := h.least
    rw [pow_succ'] at heq
    rcases (abs_eq (by positivity)).mp heq with rfl | rfl
    · refine ⟨2 ^ f, k + 1, ?_, by omega, hdouble _, fun hf _ => ?_⟩
      · rw [abs_of_nonneg (by positivity)]
        exact pow_lt_pow_right₀ one_lt_two (Nat.lt_succ_self f)
      · exact even_two.pow_of_ne_zero (by omega)
    · refine ⟨-2 ^ f, k + 1, ?_, by omega, ?_, fun hf _ => ?_⟩
      · rw [abs_neg, abs_of_nonneg (by positivity)]
        exact pow_lt_pow_right₀ one_lt_two (Nat.lt_succ_self f)
      · rw [← hdouble, mul_neg]
      · exact (even_two.pow_of_ne_zero (by omega)).neg

/-! ### The greatest value of the type -/

theorem RoundsTo.exponent_le (he : 1 ≤ e) (hq : |q| < 2 ^ (e + 1)) : k ≤ e - f := by
  rcases h.normal with hmin | hnormal
  · omega
  · have hlt : (2 : Rat) ^ (k + f) < 2 ^ ((e : Int) + 1) := hnormal.trans_lt (by exact_mod_cast hq)
    have := (zpow_lt_zpow_iff_right₀ one_lt_two).mp hlt
    omega

theorem RoundsTo.le_exponent (hq : 2 ^ e ≤ |q|) : e - f ≤ k := by
  have hlt : (2 : Rat) ^ (e : Int) < 2 ^ (k + f + 1) := by exact_mod_cast hq.trans_lt h.below
  have := (zpow_lt_zpow_iff_right₀ one_lt_two).mp hlt
  omega

/-- The rounding of a normal number is as great as the least normal number of its size. -/
theorem RoundsTo.normal_le_abs (hq : (2 : Rat) ^ (k + f) ≤ |q|) : (2 : Rat) ^ (k + f) ≤ |(n : Rat)| * 2 ^ k := by
  have hk : (0 : Rat) < 2 ^ k := by positivity
  obtain ⟨hlow, -, -⟩ := h.abs_bounds
  rw [← two_pow_mul_zpow] at hq ⊢
  have hlt : (2 ^ f : Rat) * 2 ^ k < (|(n : Rat)| + 1) * 2 ^ k := by linarith
  have hn : (2 : Int) ^ f < |n| + 1 := by exact_mod_cast lt_of_mul_lt_mul_right hlt hk.le
  gcongr
  exact_mod_cast Int.le_of_lt_add_one hn

/-- Below half a last place beyond the greatest value, the rounding stays below the first power of two out of range. -/
theorem RoundsTo.abs_lt_of_lt_beyond (he : 1 ≤ e) (hq : |q| < 2 ^ (e + 1) - (2 : Rat) ^ ((e : Int) - f - 1)) :
    |n * (2 : Rat) ^ k| < 2 ^ (e + 1) := by
  obtain ⟨-, hup, -⟩ := h.abs_bounds
  have hk := h.exponent_le he (hq.trans (sub_lt_self _ (by positivity)))
  have hhalf : (2 : Rat) ^ k / 2 ≤ 2 ^ ((e : Int) - f - 1) := by
    rw [div_eq_mul_inv, ← zpow_sub_one₀ (two_ne_zero' Rat)]
    exact zpow_le_zpow_right₀ one_le_two (by omega)
  rw [abs_mul, abs_of_pos (by positivity : (0 : Rat) < 2 ^ k)]
  linarith

/-- From half a last place beyond the greatest value on, the rounding is out of range: at exactly half a place because the
greatest significand is odd. -/
theorem RoundsTo.le_abs_of_beyond_le (he : 1 ≤ e) (hq : 2 ^ (e + 1) - (2 : Rat) ^ ((e : Int) - f - 1) ≤ |q|) :
    2 ^ (e + 1) ≤ |n * (2 : Rat) ^ k| := by
  obtain ⟨hlow, -, htie⟩ := h.abs_bounds
  have hk : (0 : Rat) < 2 ^ k := by positivity
  have hexp : (e : Int) - f ≤ k := by
    have hhalf : (2 : Rat) ^ ((e : Int) - f - 1) ≤ 2 ^ (e : Int) := zpow_le_zpow_right₀ one_le_two (by omega)
    rw [zpow_natCast] at hhalf
    exact h.le_exponent (by linarith [pow_succ (2 : Rat) e])
  rw [abs_mul, abs_of_pos hk]
  rcases hexp.eq_or_lt with heq | hgt
  · have hbound : (2 : Rat) ^ (e + 1) = 2 ^ (f + 1) * 2 ^ k := by
      rw [two_pow_mul_zpow, ← heq, ← zpow_natCast]
      congr 1
      push_cast
      ring
    have hhalf : (2 : Rat) ^ ((e : Int) - f - 1) = 2 ^ k / 2 := by rw [heq, zpow_sub_one₀ two_ne_zero]; rfl
    rw [hbound, hhalf] at hq
    rw [hbound]
    by_contra hlt
    have hle : |n| + 1 ≤ 2 ^ (f + 1) := by exact_mod_cast lt_of_mul_lt_mul_right (not_le.mp hlt) hk.le
    have hle' : (|(n : Rat)| + 1) * 2 ^ k ≤ 2 ^ (f + 1) * 2 ^ k := by gcongr; exact_mod_cast hle
    have hge' : (2 ^ (f + 1) : Rat) * 2 ^ k ≤ (|(n : Rat)| + 1) * 2 ^ k := by linarith
    have hodd : |n| + 1 = 2 ^ (f + 1) := hle.antisymm (by exact_mod_cast le_of_mul_le_mul_right hge' hk)
    have hpow : Even (|n| + 1) := hodd ▸ even_two.pow_of_ne_zero f.succ_ne_zero
    exact Int.even_add_one.mp hpow (even_abs.mpr (htie (by linarith)))
  · have hnormal : (2 : Rat) ^ (k + f) ≤ |q| := h.normal.resolve_left (by omega)
    calc (2 : Rat) ^ (e + 1) = 2 ^ ((e : Int) + 1) := by norm_cast
      _ ≤ 2 ^ (k + f) := zpow_le_zpow_right₀ one_le_two (by omega)
      _ ≤ |(n : Rat)| * 2 ^ k := h.normal_le_abs hnormal

end

/-- Settles O49: each clause is a fact about the rounding `roundBinary` computes. -/
theorem binaryRealsRoundToNearest : Obligations.BinaryRealsRoundToNearest := by
  intro f e
  refine ⟨fun q v hv => ?_, fun he q => ?_, fun v hv hlt => ?_, fun x scale w => fix_of_exact_product w⟩
  · obtain ⟨n, k, hround, hspec⟩ := roundBinary_spec f e q
    obtain ⟨hin, rfl⟩ : |n * (2 : Rat) ^ k| < 2 ^ (e + 1) ∧ v = n * 2 ^ k := by
      rw [hspec] at hv
      split_ifs at hv with hout
      exact ⟨not_le.mp hout, (RealArg.fin.inj hv).symm⟩
    obtain ⟨m, j, hm, hj, hvalue, heven⟩ := hround.exists_significand
    refine ⟨⟨m, j, hm, hj, hvalue⟩, hin, fun _ => hround.nearest, fun hf v' hv' hne heq => ?_⟩
    obtain ⟨i, rfl⟩ := (heven hf (hround.even_of_equally_near hv' hne heq)).two_dvd
    exact ⟨i, j, hm, hj, by rw [hvalue]; push_cast; rfl⟩
  · obtain ⟨n, k, hround, hspec⟩ := roundBinary_spec f e q
    intro beyond
    have hpos : 0 < beyond := by
      have : (2 : Rat) ^ ((e : Int) - f - 1) < 2 ^ ((e : Int) + 1) := zpow_lt_zpow_right₀ one_lt_two (by omega)
      have hcast : (2 : Rat) ^ ((e : Int) + 1) = 2 ^ (e + 1) := by norm_cast
      exact sub_pos.mpr (hcast ▸ this)
    refine ⟨fun hq => ?_, fun hq => ?_, fun hq => ?_⟩
    · exact ⟨_, hspec.trans (if_neg (not_le.mpr (hround.abs_lt_of_lt_beyond he hq)))⟩
    · have hout := hround.le_abs_of_beyond_le he (hq.trans (le_abs_self q))
      rw [hspec, if_pos hout, if_pos (hpos.trans_le hq)]
    · have hout := hround.le_abs_of_beyond_le he ((le_neg_of_le_neg hq).trans (neg_le_abs q))
      rw [hspec, if_pos hout, if_neg (by linarith)]
  · obtain ⟨n, k, hround, hspec⟩ := roundBinary_spec f e v
    rw [hspec, hround.eq_of_binaryValue hv, if_neg (not_le.mpr hlt)]

end Sys2Proof.Machine

/-! ## The rights of the agents (R253), and a handler that does not return (R251)

What an instruction may write is said once for each agent: `exec_of_app`, `exec_of_scanOrApp`, `exec_of_rx` and
`exec_of_scan`. -/

namespace Sys2Proof.Machine

section
variable {s t u : State} {i : Instr}

/-! ### The application -/

/-- `t` is `s` but for a result or a fatal fault. -/
def Computes (s t : State) : Prop := t = { s with result := t.result, faulted := t.faulted }

/-- A call that computes a value and gives it to its caller. -/
theorem Computes.call {α : Type} {r : Except FatalFault α} {g : α → CallResult}
    (h : unlessFaulted s (orRaise s r fun a => returns (g a) s) = .next t) : Computes s t := by
  obtain ⟨a, _, rfl⟩ | ⟨f, _, rfl⟩ := orRaise_next (unlessFaulted_next h).2 <;> rfl

/-- `t` is `s` but for what belongs to the application: its result, the handlers, what it sent, the count of frames it
built; or a fatal fault. -/
def AppCall (s t : State) : Prop :=
  t = { s with
    result := t.result, faulted := t.faulted, freeCount := t.freeCount, txOut := t.txOut, pktHandler := t.pktHandler,
    errHandler := t.errHandler }

theorem Computes.appCall (h : Computes s t) : AppCall s t := by
  rw [h]
  rfl

/-- Everything an instruction of the application can do: only START, STOP and REGISTER_TYPE reach beyond its own part of
the state. -/
theorem exec_of_app (hi : i.agents = [.app]) (h : exec i s = .next t) :
    AppCall s t ∨
    (i = .start ∧ t = returns .ok (freeze { s with rxbuf := [], run := true, scanState := .idle })) ∨
    (i = .stop ∧ t = returns .none { s with run := false, joinWait := true }) ∨
    ∃ tid k, i = .registerType tid k ∧ s.regFrozen = false ∧
      t = returns .none { s with registry := Registry.insert s.registry tid k } := by
  cases i with
  | frameSmall | frameLarge | nonCandidate _ | firmwareVersion | telemetry | unknownType _ | rxAppend _ | scanPass
  | loopTest | createPacket _ | crc16 _ | extractFrame _ _ _ => cases hi
  | requestFirmwareVersion | requestTelemetry | setDutyCycle _ | setCurrent _ | setCurrentBrake _ | setRPM _
  | setPosition _ | setServoPosition _ | encRequestFwVersion | encRequestTelemetry | encSetDutyCycle _
  | encSetCurrent _ | encSetCurrentBrake _ | encSetRpm _ | encSetPosition _ | encSetServoPosition _ =>
    exact .inl (Computes.call (g := .packet) h).appCall
  | sealFrame _ => exact .inl (Computes.call (g := .frame) h).appCall
  | decTelemetry call _ | decFwVersion call _ =>
    cases call with
    | construct => cases hi
    | access _ => exact .inl (Computes.call (g := id) h).appCall
  | buildFrame n =>
    obtain ⟨f, _, rfl⟩ | ⟨f, _, rfl⟩ := orRaise_next (unlessFaulted_next h).2 <;> exact .inl rfl
  | send f =>
    cases (unlessFaulted_next h).2
    exact .inl rfl
  | setPacketHandler | setErrorHandler =>
    have h := (unlessFaulted_next h).2
    split_ifs at h
    cases h
    exact .inl rfl
  | start =>
    have h := (unlessFaulted_next h).2
    split_ifs at h <;> cases h
    · exact .inl rfl
    · exact .inr (.inl ⟨rfl, rfl⟩)
  | stop =>
    have h := (unlessFaulted_next h).2
    split_ifs at h <;> cases h
    · exact .inl rfl
    · exact .inr (.inr (.inl ⟨rfl, rfl⟩))
  | registerType tid k =>
    have h := (unlessFaulted_next h).2
    split_ifs at h with hz
    · cases h
      exact .inl rfl
    · split at h <;> cases h
      · exact .inl rfl
      · exact .inr (.inr (.inr ⟨tid, k, rfl, by simpa using hz, rfl⟩))

/-! ### What SCAN and APP both may call -/

/-- CREATE_PACKET and CRC16 change the freeze, the transients, the caller's result and FAULTED alone. -/
theorem exec_of_scanOrApp (hi : i.agents = [.scan, .app]) (h : exec i s = .next t) :
    t = { s with regFrozen := t.regFrozen, work := t.work, result := t.result, faulted := t.faulted } := by
  cases i with
  | createPacket w => obtain ⟨q, _, rfl⟩ | ⟨f, _, rfl⟩ := orRaise_next (unlessFaulted_next h).2 <;> rfl
  | crc16 bytes =>
    cases (unlessFaulted_next h).2
    rfl
  | decTelemetry call _ | decFwVersion call _ => cases call <;> cases hi
  | _ => cases hi

/-! ### The receive callback -/

/-- RX_APPEND writes the buffer, or its place in the wait. -/
theorem exec_of_rx (hi : i.agents = [.rx]) (h : exec i s = .next t) :
    t = { s with rxbuf := t.rxbuf, rxWait := t.rxWait } := by
  cases i with
  | rxAppend chunk =>
    have h := (unlessFaulted_next h).2
    split_ifs at h <;> cases h <;> rfl
  | decTelemetry call _ | decFwVersion call _ => cases call <;> cases hi
  | _ => cases hi

/-! ### The scanner -/

/-- The application's part of the state, which the scanner reads at most (R253). -/
def appState (s : State) : Registry × Bool × HandlerReg × HandlerReg × List Bytes × Nat :=
  (s.registry, s.run, s.pktHandler, s.errHandler, s.txOut, s.freeCount)

theorem Computes.appState (h : Computes s t) : Machine.appState t = Machine.appState s := by
  rw [h]
  rfl

/-- A move of the scanner leaves the application's part alone and gives a result to nobody. -/
def ScannerMove (s t : State) : Prop := appState t = appState s ∧ t.result = s.result

theorem ScannerMove.settle (r : CreateResult) (h : ScannerMove s u) :
    ScannerMove s (turnState (Machine.settle r u)) := by
  obtain ⟨p, _, _, e⟩ | ⟨p, _, _, e⟩ | ⟨k, _, e⟩ | ⟨k, _, e⟩ := settle_cases r u <;> rw [e] <;> exact h

theorem candidate_scannerMove {sof : Byte} {lenb : Nat} (h : candidate sof lenb s = .next t) : ScannerMove s t := by
  cases hr : (examined sof lenb s).2.result? with
  | some r =>
    cases (candidate_of_result hr).symm.trans h
    exact ScannerMove.settle r ⟨rfl, rfl⟩
  | none =>
    cases (candidate_of_valid (Verdict.eq_valid hr)).symm.trans h
    exact ⟨rfl, rfl⟩

theorem lookUp_scannerMove {tid : Byte} (h : lookUp tid s = .next t) : ScannerMove s t := by
  obtain ⟨q, _, rfl⟩ | ⟨f, _, rfl⟩ := orRaise_next h
  · exact ScannerMove.settle q.2 ⟨rfl, rfl⟩
  · exact ⟨rfl, rfl⟩

/-- Every turn of the scan loop is a move of the scanner, and so is the pass's end. -/
theorem execScanPass_scannerMove (h : exec .scanPass s = .next t) : ScannerMove s t := by
  obtain ⟨hl, ha, ⟨_, rfl⟩ | ⟨hlock, _⟩⟩ := execScanPass_cases h
  · exact ⟨rfl, rfl⟩
  obtain ⟨u, hloop, hu⟩ := scanLoop_induct (P := ScannerMove s) (Q := ScannerMove s)
    (stop := fun _ hu _ => hu)
    (skip := fun _ _ _ hu _ _ _ => hu)
    (packet := fun _ _ _ hu _ _ => hu)
    (hang := fun _ _ _ hu _ _ => hu)
    (wait := fun _ _ _ _ _ hu _ _ _ => hu)
    (reject := fun _ _ _ _ _ hu _ _ _ => hu)
    _ (passBegin s) ⟨rfl, rfl⟩ (passBegin_window_length s)
  cases (execScanPass_of_loop hl ha hlock hloop).symm.trans h
  exact hu

/-- Everything an instruction of the scanner can do: it moves the scanner, or it is a part of CREATE_PACKET called as such
and computes a value (log entry 38). -/
theorem exec_of_scan (hi : i.agents = [.scan]) (h : exec i s = .next t) :
    ScannerMove s t ∨ (Computes s t ∧ ¬ (i.format ≠ .op ∨ i = .scanPass ∨ i = .loopTest)) := by
  cases i with
  | frameSmall | frameLarge =>
    obtain ⟨_, _, _, h⟩ := inPassAt_next h
    exact .inl (candidate_scannerMove h)
  | nonCandidate b =>
    obtain ⟨_, _, _, h⟩ := inPassAt_next h
    cases h
    exact .inl ⟨rfl, rfl⟩
  | firmwareVersion | telemetry | unknownType _ =>
    obtain ⟨_, _, _, h⟩ := inPassAt_next h
    exact .inl (lookUp_scannerMove h)
  | scanPass => exact .inl (execScanPass_scannerMove h)
  | loopTest =>
    have h := (unlessFaulted_next h).2
    split_ifs at h <;> cases h <;> exact .inl ⟨rfl, rfl⟩
  | extractFrame raw off n => exact .inr ⟨.call (g := .frame) h, by simp [Instr.format]⟩
  | decTelemetry call _ | decFwVersion call _ =>
    cases call with
    | construct =>
      cases (unlessFaulted_next h).2
      exact .inr ⟨rfl, by simp [Instr.format]⟩
    | access _ => cases hi
  | _ => cases hi

end

/-- Settles O58, agent by agent. -/
theorem agentsKeepToTheirRights : Obligations.AgentsKeepToTheirRights := by
  intro s t i h
  refine ⟨fun hi => ?_, fun hi => exec_of_scanOrApp hi h, fun hi => exec_of_rx hi h, fun hi => ?_⟩
  · obtain hcall | ⟨rfl, rfl⟩ | ⟨rfl, rfl⟩ | ⟨tid, k, rfl, hz, rfl⟩ := exec_of_app hi h
    · rw [hcall]
      simp [readByte]
    · simp
    · simp [readByte]
    · simp [readByte, hz]
  · have hmove : appState t = appState s ∧
        (i.format ≠ .op ∨ i = .scanPass ∨ i = .loopTest → t.result = s.result) := by
      obtain ⟨happ, hresult⟩ | ⟨hcomputes, hi⟩ := exec_of_scan hi h
      · exact ⟨happ, fun _ => hresult⟩
      · exact ⟨hcomputes.appState, fun hmoves => absurd hmoves hi⟩
    simpa only [appState, Prod.mk.injEq, and_assoc] using hmove

/-! ### A handler that does not return -/

section
variable {s : State} (h : Inv s) (hs : s.subState = .inHandler)
include h hs

/-- The scanner is stuck only inside a pass. -/
theorem Inv.inPass_of_inHandler : s.scanState = .inPass := by
  by_contra hp
  simp [h.searchOutside hp] at hs

/-- The pass that is stuck holds the lock (R25, 93 U8). -/
theorem Inv.heldScan_of_inHandler : s.lock = .heldScan := h.lockInPass.mpr (h.inPass_of_inHandler hs)

end

/-- Settles O35: the pass is under way and holds the lock, and no move of the machine's own ends it. -/
theorem hungHandlerHoldsTheLock : Obligations.HungHandlerHoldsTheLock := by
  intro s chunk hl h hs
  have hp := h.inPass_of_inHandler hs
  have hheld : s.lock ≠ .free := by simp [h.heldScan_of_inHandler hs]
  refine ⟨fun hnone => ?_, execScanPass_refused hl (by simp [hp]), execLoopTest_refused hl (by simp [hp]),
    (rxAppendAppendsOrWaits s chunk hl).2 hheld⟩
  rw [step_of_no_record hl (by simp [scanning, hs]) (by rw [hnone]; rfl), pollMove, hp]

end Sys2Proof.Machine

/-! ## Start-up: registering the initial registry (R272)

Each entry is an absent identifier when its turn comes, since the ones before it in the map have other identifiers. -/

namespace Sys2Proof.Machine

section
variable {s : State} {tid : Byte} (k : Kind) (rest : List (Byte × Kind))

/-- An entry for an absent identifier is written, and registration goes on from there (R141). -/
theorem registerAll_cons_absent (hl : s.live) (hz : s.regFrozen = false) (hf : Registry.find s.registry tid = none) :
    registerAll ((tid, k) :: rest) s =
      registerAll rest { s with registry := Registry.insert s.registry tid k, result := .none } := by
  rw [registerAll, execRegisterType_absent k hl hz hf]

end

/-- Before the freeze, entries with distinct identifiers that the registry lacks are added to what it holds. -/
theorem registerAll_of_absent {es : List (Byte × Kind)} (hd : (es.map Prod.fst).Nodup) {s : State} (hl : s.live)
    (hz : s.regFrozen = false) (habsent : ∀ e ∈ es, Registry.find s.registry e.1 = none) :
    ∃ t, registerAll es s = .next t ∧ t.live ∧
      ∀ x k, Registry.find t.registry x = some k ↔ (x, k) ∈ es ∨ Registry.find s.registry x = some k := by
  induction es generalizing s with
  | nil => exact ⟨s, rfl, hl, by simp⟩
  | cons e rest ih =>
    obtain ⟨tid, kind⟩ := e
    obtain ⟨hnew, hrest⟩ := List.nodup_cons.mp hd
    obtain ⟨hnone, hothers⟩ := List.forall_mem_cons.mp habsent
    have hstill : ∀ e ∈ rest, Registry.find (Registry.insert s.registry tid kind) e.1 = none := by
      intro e he
      have hne : e.1 ≠ tid := fun h => hnew (List.mem_map.mpr ⟨e, he, h⟩)
      rw [Registry.find_insert, if_neg hne]
      exact hothers e he
    obtain ⟨t, hrun, hlive, hentries⟩ :=
      ih hrest (s := { s with registry := Registry.insert s.registry tid kind, result := .none }) hl hz hstill
    refine ⟨t, (registerAll_cons_absent kind rest hl hz hnone).trans hrun, hlive, fun x k => ?_⟩
    rw [hentries, Registry.find_insert, List.mem_cons, Prod.mk.injEq]
    by_cases hx : x = tid
    · subst hx
      simp [hnone, or_comm, eq_comm]
    · simp [hx]

/-- Settles O15: the initial registry is a map (R8), and the registry it is added to is empty. -/
theorem startupRegistersTheInitialRegistry : Obligations.StartupRegistersTheInitialRegistry := by
  intro s hl hw hz hempty
  obtain ⟨_, hmap⟩ := hw
  simpa [hempty, Registry.find] using
    registerAll_of_absent hmap hl hz fun _ _ => by rw [hempty, Registry.find]

end Sys2Proof.Machine
